-- ==== Sys2Proof/Word.lean ====
section
/-! DEFINITION. The word types of the BF-VM datapath (spec 00_scope.md R5, R7, R8). -/

namespace Sys2Proof

/-- A tape cell and every I/O byte: `CELL_W` = 8 bits, unsigned (R5, R8). -/
abbrev Byte := BitVec 8

/-- One opcode ROM word: `WORD_W` = 32 bits (R5). -/
abbrev Word := BitVec 32

/-- `IP`, `PROG_LEN`, `FAULT_IP` and a ROM index at a port: `IP_W` = 28 bits (R5). -/
abbrev RomIndex := BitVec 28

/-- A tape index as a register or a port holds it: 28 bits, the largest `CUR_W` of any legal
`TAPE_LEN` (R5, D7; DESIGN CHOICE, log entry 2). -/
abbrev TapeIndex := BitVec 28

end Sys2Proof
end

