-- ==== Sys2Proof/Syntax.lean ====
section
/-! DEFINITION. The instructions, one constructor for each row of spec/opcode_table.json, and the
direction of a jump (spec 00_scope.md R2, R10; 30_encoding.md R92 to R94). -/

namespace Sys2Proof

/-- The `direction` field of a jump: "is one of `Forward` or `Backward`" (R94). -/
inductive Direction where
  | forward
  | backward
deriving DecidableEq, Repr

/-- The nine opcodes. A count or a destination is a natural number, as R8 reads every operand; that
it fits its field is `Instr.wellFormed` (log entry 12). -/
inductive Instr where
  /-- `INC n`, source `Increment(n)`. -/
  | inc (n : Nat)
  /-- `DEC n`, source `Decrement(n)`. -/
  | dec (n : Nat)
  /-- `LEFT n`, source `MoveLeft(n)`. -/
  | left (n : Nat)
  /-- `RIGHT n`, source `MoveRight(n)`. -/
  | right (n : Nat)
  /-- `ZERO`, source `Zero`. -/
  | zero
  /-- `READ`, source `Read`. -/
  | read
  /-- `WRITE`, source `Write`. -/
  | write
  /-- `JMPF dest`, source `Jump` with direction `Forward`. -/
  | jmpf (dest : Nat)
  /-- `JMPB dest`, source `Jump` with direction `Backward`. -/
  | jmpb (dest : Nat)
deriving DecidableEq, Repr

end Sys2Proof
end

