-- ==== Sys2Proof/WellFormed.lean ====
section
/-! DEFINITION. Which instructions fit a ROM word (spec 30_encoding.md R91). -/

namespace Sys2Proof

/-- The operand fits the field its format gives it: 8 bits in D8, 28 bits in M28 and J28 (R91). -/
def Instr.wellFormed : Instr → Bool
  | .inc n => decide (n < 2 ^ 8)
  | .dec n => decide (n < 2 ^ 8)
  | .left n => decide (n < 2 ^ 28)
  | .right n => decide (n < 2 ^ 28)
  | .zero => true
  | .read => true
  | .write => true
  | .jmpf d => decide (d < 2 ^ 28)
  | .jmpb d => decide (d < 2 ^ 28)

end Sys2Proof
end

