-- ==== Sys2Proof/Decode.lean ====
section
/-! DEFINITION. The decoder, total on any word and any bytes and rejecting by name, then the encoder,
the byte stream of a ROM image and the listing syntax (spec 30_encoding.md R90 to R98, 20_memory.md R65). -/

namespace Sys2Proof

/-- Why a word is illegal: the three cases of R96. -/
inductive IllegalWord where
  /-- (a) `op` is 0x0 or 0xA to 0xF. -/
  | opcode
  /-- (b) `op` is 0x1 or 0x2 and `w[27:8]` is not 0. -/
  | deltaField
  /-- (c) `op` is 0x5, 0x6 or 0x7 and `w[27:0]` is not 0. -/
  | operandField
deriving DecidableEq, Repr

/-- What the decoder answers: "Instr or ILLEGAL" (R97). -/
inductive Decoded where
  | instr (i : Instr)
  | illegal (why : IllegalWord)
deriving DecidableEq, Repr

/-- `w[hi:lo]`, read as an unsigned number of width `hi - lo + 1` (R7). -/
def bits (w : Word) (hi lo : Nat) : Nat := w.toNat / 2 ^ lo % 2 ^ (hi - lo + 1)

/-- Format D8: the delta is `w[7:0]` and `w[27:8]` must be 0 (R91). -/
def decodeD8 (mk : Nat → Instr) (w : Word) : Decoded :=
  if bits w 27 8 = 0 then .instr (mk (bits w 7 0)) else .illegal .deltaField

/-- Formats M28 and J28: the whole of `w[27:0]` is the one field (R91). -/
def decodeWhole (mk : Nat → Instr) (w : Word) : Decoded := .instr (mk (bits w 27 0))

/-- Format N: `w[27:0]` must be 0 (R91). -/
def decodeN (i : Instr) (w : Word) : Decoded :=
  if bits w 27 0 = 0 then .instr i else .illegal .operandField

/-- The opcode ROM decoder, a total function of the 32-bit word (R97). -/
def decode (w : Word) : Decoded :=
  match bits w 31 28 with
  | 0x1 => decodeD8 .inc w
  | 0x2 => decodeD8 .dec w
  | 0x3 => decodeWhole .left w
  | 0x4 => decodeWhole .right w
  | 0x5 => decodeN .zero w
  | 0x6 => decodeN .read w
  | 0x7 => decodeN .write w
  | 0x8 => decodeWhole .jmpf w
  | 0x9 => decodeWhole .jmpb w
  | _ => .illegal .opcode

/-- The rows of the opcode map: mask and match (R93). -/
def opcodeRows : List (Word × Word) :=
  [(0xFFFFFF00, 0x10000000), (0xFFFFFF00, 0x20000000), (0xF0000000, 0x30000000),
   (0xF0000000, 0x40000000), (0xFFFFFFFF, 0x50000000), (0xFFFFFFFF, 0x60000000),
   (0xFFFFFFFF, 0x70000000), (0xF0000000, 0x80000000), (0xF0000000, 0x90000000)]

/-- The rows that match a word: `(w AND mask) = match` (R93). -/
def matchingRows (w : Word) : List (Word × Word) := opcodeRows.filter fun r => w &&& r.1 == r.2

/-- The instruction a word encodes, if it encodes one. -/
def Decoded.instr? : Decoded → Option Instr
  | .instr i => some i
  | .illegal _ => none

/-- A ROM word from its two fields, `op` in bits 31:28 and the operand in bits 27:0 (R90). -/
def packWord (op operand : Nat) : Word := BitVec.ofNat 32 (op * 2 ^ 28 + operand % 2 ^ 28)

/-- The value of the `op` field of an instruction (R93, R94). -/
def Instr.opcode : Instr → Nat
  | .inc _ => 0x1
  | .dec _ => 0x2
  | .left _ => 0x3
  | .right _ => 0x4
  | .zero => 0x5
  | .read => 0x6
  | .write => 0x7
  | .jmpf _ => 0x8
  | .jmpb _ => 0x9

/-- The value of the operand field of an instruction; 0 where the format has none (R91, R92). -/
def Instr.operand : Instr → Nat
  | .inc n => n
  | .dec n => n
  | .left n => n
  | .right n => n
  | .zero => 0
  | .read => 0
  | .write => 0
  | .jmpf d => d
  | .jmpb d => d

/-- The word of a well-formed instruction (R90, R91, R93). -/
def encode (i : Instr) : Word := packWord i.opcode i.operand

/-- The instruction the decoder reads from an instruction's bits as spec/opcode_table.json numbers
them; bits above `nbits` are 0, and no instruction is longer than one word (R98). -/
def decodeTableWord (nbits w : Nat) : Option Instr :=
  if nbits ≤ 32 then (decode (BitVec.ofNat 32 (w % 2 ^ nbits))).instr? else none

/-- The four bytes of a word, least significant byte first (20_memory.md R65). -/
def wordBytes (w : Word) : List Byte :=
  [w.extractLsb' 0 8, w.extractLsb' 8 8, w.extractLsb' 16 8, w.extractLsb' 24 8]

/-- The word of four bytes, least significant byte first (20_memory.md R65). -/
def wordOfBytes (b0 b1 b2 b3 : Byte) : Word := b3 ++ b2 ++ b1 ++ b0

/-- A ROM image as a byte stream, word 0 first (20_memory.md R65). -/
def imageBytes (ws : List Word) : List Byte := ws.flatMap wordBytes

/-- The ROM image in a byte stream; none where the bytes do not make whole words (DESIGN CHOICE, log
entry 18). -/
def imageOfBytes : List Byte → Option (List Word)
  | [] => some []
  | b0 :: b1 :: b2 :: b3 :: rest => (imageOfBytes rest).map (wordOfBytes b0 b1 b2 b3 :: ·)
  | _ => none

/-- The decoder on a byte stream: the first word's instruction and the bytes after it; none where
fewer than four bytes are left. -/
def decodeBytes : List Byte → Option (Decoded × List Byte)
  | b0 :: b1 :: b2 :: b3 :: rest => some (decode (wordOfBytes b0 b1 b2 b3), rest)
  | _ => none

/-- The mnemonic of an instruction (00_scope.md R10; R93). -/
def Instr.mnemonic : Instr → String
  | .inc _ => "INC"
  | .dec _ => "DEC"
  | .left _ => "LEFT"
  | .right _ => "RIGHT"
  | .zero => "ZERO"
  | .read => "READ"
  | .write => "WRITE"
  | .jmpf _ => "JMPF"
  | .jmpb _ => "JMPB"

/-- Whether the format of an instruction has an operand: D8, M28 and J28 have one, N has none (R91). -/
def Instr.hasOperand : Instr → Bool
  | .zero => false
  | .read => false
  | .write => false
  | _ => true

/-- A ROM word in a listing: the mnemonic and, where there is one, a space and the operand in decimal
(R95). -/
def Instr.listing (i : Instr) : String :=
  if i.hasOperand then i.mnemonic ++ " " ++ toString i.operand else i.mnemonic

/-- A listing line that begins with the ROM index and a colon (R95). -/
def Instr.listingAt (index : Nat) (i : Instr) : String := toString index ++ ": " ++ i.listing

end Sys2Proof
end

