-- ==== Sys2Proof/Config.lean ====
section
/-! DEFINITION. The parameters that are fixed for one machine (spec 00_scope.md R5) and the free
values (spec 93_implementation_defined.md U1, U2). -/

namespace Sys2Proof

/-- The parameters of R5 that are not one fixed number. They stand in `State` as plain data that no
step writes, so that a statement over all states is one over all parameters (log entry 1). -/
structure Config where
  /-- `TAPE_LEN`: the number of tape cells. -/
  tapeLen : Nat
  /-- `ROM_DEPTH`: the number of words the opcode ROM can hold. -/
  romDepth : Nat
deriving DecidableEq, Repr

/-- The ranges of R5: `TAPE_LEN` from 1 to 2^28, `ROM_DEPTH` at most 2^28 - 1. -/
abbrev Config.valid (c : Config) : Prop :=
  1 ≤ c.tapeLen ∧ c.tapeLen ≤ 2 ^ 28 ∧ c.romDepth ≤ 2 ^ 28 - 1

/-- The parameters `State.reset` holds: the spec's default `TAPE_LEN` (R5), and for the OPEN
`ROM_DEPTH` its largest value (DESIGN CHOICE, log entry 1). -/
def Config.reference : Config := ⟨300000, 2 ^ 28 - 1⟩

/-- The free bytes, one for each number: where the spec says a register holds any value (U1) the model takes
the next one, and nothing can be proved about it (log entry 10). -/
opaque Config.freeByte : Nat → Byte

/-- The free byte that `rb_data` shows for an index in a state in which the readback is not valid (U2): its
own free value, which is tied to no register's and to no other state's (log entry 10). -/
opaque Config.freeReadback {σ : Type} : σ → Nat → Byte

end Sys2Proof
end

