-- ==== Sys2Proof/Machine/State.lean ====
section
/-! DEFINITION. The state of the machine as plain data (spec 10_state.md R20 to R37), what the host can
do (20_memory.md R82), the reasons a step can stop, and the machine right after reset (R37). -/

namespace Sys2Proof.Machine

/-- `STATE` (R25). Value 3 is never produced and is left out (U4; log entry 13). -/
inductive RunState where
  /-- 0: the core is executing. -/
  | run
  /-- 1: normal termination. -/
  | done
  /-- 2: a runtime error stopped execution. -/
  | fault
deriving DecidableEq, Repr

/-- `CAUSE` (R26; 60_exceptions.md R241). Values 5 to 7 are never written and are left out (U4; log
entry 13). -/
inductive Cause where
  /-- 0: no fault has occurred since reset. -/
  | none
  /-- 1: `LEFT n` with `n > CURSOR`. -/
  | cursorLeftOob
  /-- 2: `RIGHT n` with `CURSOR + n > TAPE_LEN - 1`. -/
  | cursorRightOob
  /-- 3: `READ` with no byte waiting and end of input signalled. -/
  | inputExhausted
  /-- 4: an illegal word. -/
  | illegalInstruction
deriving DecidableEq, Repr

/-- A move of the host: exactly those of 20_memory.md R82, with the release of reset that
70_reset_and_hazards.md R283 (4) names (log entry 6). -/
inductive HostMove where
  /-- PRESENT(b) (R75). -/
  | present (b : Byte)
  /-- SIGNAL_EOF (R76). -/
  | signalEof
  /-- RESET: `rst` goes to 1 (R78; R280). -/
  | assertReset
  /-- `rst` goes back to 0 (R283). -/
  | releaseReset
  /-- LOAD of one ROM word through the ROM load port (R79; R281). -/
  | loadWord (addr : RomIndex) (data : Word)
  /-- LOAD of `PROG_LEN` (R79; R281). -/
  | loadProgLen (n : RomIndex)
  /-- Readback of one tape cell (60_exceptions.md R262). -/
  | readTape (addr : TapeIndex)
deriving DecidableEq, Repr

/-- Whose turn it is: a core step or a host move (00_scope.md R6; 60_exceptions.md R247). -/
inductive Turn where
  | core
  | host (m : HostMove)
deriving DecidableEq, Repr

/-- The data space: the cells that differ from what an unlisted cell reads as, by rising index. -/
abbrev Memory := List Host.Cell

/-- The program space: the words that differ from what an unlisted word reads as, by rising index. -/
abbrev Rom := List (Nat × Word)

/-- Everything the spec gives the machine, and at the end two fields of the model's own. -/
structure State where
  /-- `TAPE_LEN` and `ROM_DEPTH` (R5); no step writes them. -/
  cfg : Config
  /-- The level of the reset input (R36; R280). -/
  rst : Bool
  /-- `IP` (R20). -/
  ip : RomIndex
  /-- `PROG_LEN` (R21). -/
  progLen : RomIndex
  /-- `ROM` (R24). -/
  rom : Rom
  /-- `TAPE` (R22). -/
  tape : Memory
  /-- `CURSOR` (R23), in the 28 bits of the largest `CUR_W` (log entry 2). -/
  cursor : TapeIndex
  /-- `STATE` (R25). -/
  status : RunState
  /-- `CAUSE` (R26). -/
  cause : Cause
  /-- `FAULT_IP` (R27). -/
  faultIp : RomIndex
  /-- `IN_VALID` (R28). -/
  inValid : Bool
  /-- `IN_DATA` (R28); while `IN_VALID` = 0 it is any value (U1; log entry 10). -/
  inData : Byte
  /-- `IN_EOF` (R28). -/
  inEof : Bool
  /-- `OUT_DATA` (R29). -/
  outData : Byte
  /-- The output stream, oldest byte first: an observation (20_memory.md R80; log entry 15). -/
  outStream : List Byte
  /-- The input consumed, oldest byte first: an observation (20_memory.md R80; log entry 15). -/
  inConsumed : List Byte
  /-- The model's own: the turns still to come; an empty schedule gives core turns for ever (U6; log
  entry 7). -/
  schedule : List Turn
  /-- The model's own: the number of the next free value (log entry 10). -/
  freeCount : Nat
deriving DecidableEq, Repr

/-- Why the model stops on an access to an index that the spec says does not exist. Both are SAFE:
the spec proves that no run reaches such a state (R23; R142), and the machine's own faults are next
states with `STATE` = FAULT, not these (log entry 11). -/
inductive Fault where
  /-- Raised by every access to the cell at `CURSOR` when `CURSOR` is not below `TAPE_LEN`. Safe. -/
  | tapeIndexOutOfRange
  /-- Raised by the fetch when `IP` is below `PROG_LEN` but not below `ROM_DEPTH`. Safe. -/
  | romIndexOutOfRange
deriving DecidableEq, Repr

/-- Why the model has no meaning for a step. -/
inductive Refusal where
  /-- Raised by an arm of `exec` whose instruction has no meaning yet; no arm is one. Safe. -/
  | notModelled (mnemonic : String)
  /-- Raised by `step` on a scheduled host move that the host does not have in that state
  (20_memory.md R82: "a model gives no such move"; U7, U8). Safe (log entry 9). -/
  | hostMoveNotEnabled
deriving DecidableEq, Repr

/-- The machine right after reset (R37), with nothing loaded. The spec gives every value but these:
`cfg.romDepth` (log entry 1), `IN_DATA` and `OUT_DATA` (log entry 3), `PROG_LEN` and the ROM, which
the host loads (log entry 4), and the model's own two fields (log entries 7, 10). -/
def State.reset : State where
  cfg := Config.reference
  rst := false
  ip := 0
  progLen := 0
  rom := []
  tape := []
  cursor := 0
  status := .run
  cause := .none
  faultIp := 0
  inValid := false
  inData := 0
  inEof := false
  outData := 0
  outStream := []
  inConsumed := []
  schedule := []
  freeCount := 0

end Sys2Proof.Machine
end

