-- ==== Sys2Proof/Machine/Alu.lean ====
section
/-! DEFINITION. The data ALU and the cursor ALU (spec 41_cell_arithmetic.md R163, 42_cursor_moves.md
R182): exact arithmetic, narrowed once at the end (00_scope.md R8). -/

namespace Sys2Proof.Machine

/-- `add8(v, n) = (v + n) mod 256` (R163). -/
def add8 (v : Byte) (n : Nat) : Byte := BitVec.ofNat 8 (v.toNat + n)

/-- `sub8(v, n) = (v - n) mod 256` with the non-negative remainder (R163). -/
def sub8 (v : Byte) (n : Nat) : Byte := BitVec.ofInt 8 ((v.toNat : Int) - (n : Int))

/-- The target of `LEFT n`, an unbounded integer (R182). -/
def leftTarget (cursor : TapeIndex) (n : Nat) : Int := (cursor.toNat : Int) - (n : Int)

/-- The target of `RIGHT n`, an unbounded integer (R182). -/
def rightTarget (cursor : TapeIndex) (n : Nat) : Int := (cursor.toNat : Int) + (n : Int)

/-- The cursor register for a target that the bounds check has let through. -/
def cursorOf (t : Int) : TapeIndex := BitVec.ofNat 28 t.toNat

/-- `CUR_W` = max(1, ceil(log2(TAPE_LEN))), the width of the cursor (00_scope.md R5). -/
def curW (c : Config) : Nat := Nat.log2 (c.tapeLen - 1) + 1

end Sys2Proof.Machine
end

