-- ==== Sys2Proof/Machine/Flags.lean ====
section
/-! DEFINITION. There are no flags and no condition codes (spec 10_state.md R31). What stands in their
place is the zero detector and the condition of the jump multiplexer (44_conditional_jump.md R222). -/

namespace Sys2Proof.Machine

/-- The combinational zero detector `Z` of a cell; it holds no state (R31). -/
def zeroDetect (v : Byte) : Bool := v == 0

/-- `taken = (dir = Forward and Z) or (dir = Backward and not Z)` (R222). -/
def jumpTaken (dir : Direction) (z : Bool) : Bool :=
  match dir with
  | .forward => z
  | .backward => !z

end Sys2Proof.Machine
end

