-- ==== Sys2Proof/Machine/Ops.lean ====
section
/-! DEFINITION. The named operations over the spaces and the registers: the two indexed memories in
their canonical form, the writes a step makes, raising a fault, and reset (spec 20_memory.md R60 to
R67, 60_exceptions.md R245, 70_reset_and_hazards.md R280). -/

namespace Sys2Proof.Machine

/-! ### Sparse arrays: what an unlisted index reads as is `dflt` -/

/-- The value at an index. -/
def lookup {α : Type} (dflt : α) : List (Nat × α) → Nat → α
  | [], _ => dflt
  | (b, x) :: m, a => if b = a then x else lookup dflt m a

/-- The list without an index. -/
def eraseIndex {α : Type} (m : List (Nat × α)) (a : Nat) : List (Nat × α) :=
  m.filter fun p => decide (p.1 ≠ a)

/-- An entry put in its place in a rising list. -/
def insertSorted {α : Type} (a : Nat) (v : α) : List (Nat × α) → List (Nat × α)
  | [] => [(a, v)]
  | (b, x) :: m => if a < b then (a, v) :: (b, x) :: m else (b, x) :: insertSorted a v m

/-- The array with one index written; writing `dflt` leaves the index unlisted. -/
def update {α : Type} [DecidableEq α] (dflt : α) (m : List (Nat × α)) (a : Nat) (v : α) :
    List (Nat × α) :=
  if v = dflt then eraseIndex m a else insertSorted a v (eraseIndex m a)

/-- The canonical form: indices strictly rising, and no entry equal to what an unlisted index reads as. -/
abbrev canonical {α : Type} (dflt : α) (m : List (Nat × α)) : Prop :=
  m.Pairwise (fun p q => p.1 < q.1) ∧ ∀ p ∈ m, p.2 ≠ dflt

/-! ### The tape -/

/-- What an unlisted cell reads as: reset leaves every cell 0x00 (10_state.md R22, R37). -/
def unlistedCell : Byte := 0

/-- The cell at an index. A read has no side effect (20_memory.md R67). -/
def Memory.read (m : Memory) (a : Nat) : Byte := lookup unlistedCell m a

/-- The tape with one cell written; no other cell changes (20_memory.md R67). -/
def Memory.write (m : Memory) (a : Nat) (v : Byte) : Memory := update unlistedCell m a v

/-- The canonical form of the tape. -/
abbrev Memory.wf (m : Memory) : Prop := canonical unlistedCell m

/-! ### The opcode ROM -/

/-- What a word that nothing has loaded reads as: the all-zero word, which is illegal, so that a fetch
from it "faults rather than running" (30_encoding.md R96; DEDUCED, log entry 5). -/
def unlistedWord : Word := 0

/-- The word at an index. -/
def Rom.read (m : Rom) (a : Nat) : Word := lookup unlistedWord m a

/-- The ROM with one word loaded. -/
def Rom.write (m : Rom) (a : Nat) (w : Word) : Rom := update unlistedWord m a w

/-- The canonical form of the ROM. -/
abbrev Rom.wf (m : Rom) : Prop := canonical unlistedWord m

/-! ### Reads -/

/-- `CURSOR` is an index of the tape (R23). -/
def cursorInTape (s : State) : Bool := decide (s.cursor.toNat < s.cfg.tapeLen)

/-- `TapeRead(CURSOR)`: the current cell (00_scope.md R9; 20_memory.md R62). -/
def tapeRead (s : State) : Byte := Memory.read s.tape s.cursor.toNat

/-- `ROM[IP]` (40_execution_cycle.md R142). -/
def fetchWord (s : State) : Word := Rom.read s.rom s.ip.toNat

/-! ### Writes of the core -/

/-- `TapeWrite(CURSOR, v)` (00_scope.md R9; 20_memory.md R62). -/
def tapeWrite (v : Byte) (s : State) : State :=
  { s with tape := Memory.write s.tape s.cursor.toNat v }

/-- `CURSOR <- t`. -/
def setCursor (t : Int) (s : State) : State := { s with cursor := cursorOf t }

/-- The sequential advance `IP <- IP + 1` (40_execution_cycle.md R148). -/
def advance (s : State) : State := { s with ip := s.ip + 1 }

/-- `IP <- d`: any 28-bit destination, unchecked (44_conditional_jump.md R223). -/
def jumpTo (d : Nat) (s : State) : State := { s with ip := BitVec.ofNat 28 d }

/-- The byte is consumed: `IN_VALID <- 0`, and the byte joins the input consumed (43_byte_io.md R200).
From then on `IN_DATA` is any value (R28; U1), so it takes a free value (log entry 10). -/
def consumeInput (s : State) : State :=
  { s with
    inValid := false
    inData := Config.freeByte s.freeCount
    inConsumed := s.inConsumed ++ [s.inData]
    freeCount := s.freeCount + 1 }

/-- `OUT_DATA <- b ; Emit(b)`: one output event, accepted by the host in the same step (43_byte_io.md
R202, R203; 20_memory.md R77). -/
def emit (b : Byte) (s : State) : State := { s with outData := b, outStream := s.outStream ++ [b] }

/-- Termination: `STATE <- DONE` and nothing else (40_execution_cycle.md R141). -/
def finish (s : State) : State := { s with status := .done }

/-- `raise Fault(c)`: writes exactly `STATE <- FAULT`, `CAUSE <- c`, `FAULT_IP <- IP` (60_exceptions.md
R245). There is no return from it (R249): only `resetAll` leaves the state FAULT. -/
def raiseFault (c : Cause) (s : State) : State :=
  { s with status := .fault, cause := c, faultIp := s.ip }

/-! ### Writes of the host -/

/-- PRESENT(b): `IN_DATA <- b`, `IN_VALID <- 1` (20_memory.md R75). -/
def presentByte (b : Byte) (s : State) : State := { s with inValid := true, inData := b }

/-- SIGNAL_EOF: `IN_EOF <- 1` (20_memory.md R76). -/
def signalEof (s : State) : State := { s with inEof := true }

/-- RESET: every piece of state goes to its value in R37 and `rst` to 1; the ROM and `PROG_LEN` keep
their contents, and the two data registers become unspecified, so each takes a free value (R280; U1;
log entry 10). -/
def resetAll (s : State) : State :=
  { cfg := s.cfg, rst := true, ip := 0, progLen := s.progLen, rom := s.rom, tape := [], cursor := 0,
    status := .run, cause := .none, faultIp := 0,
    inValid := false, inData := Config.freeByte s.freeCount, inEof := false,
    outData := Config.freeByte (s.freeCount + 1), outStream := [], inConsumed := [],
    schedule := s.schedule, freeCount := s.freeCount + 2 }

/-- The release of `rst` (70_reset_and_hazards.md R283). -/
def releaseReset (s : State) : State := { s with rst := false }

/-- The ROM load port: `ROM[rom_waddr] <- rom_wdata` when `rst` = 1 and `rom_waddr < ROM_DEPTH`, and no
effect otherwise (70_reset_and_hazards.md R281). -/
def romPort (addr : RomIndex) (data : Word) (s : State) : State :=
  if s.rst && decide (addr.toNat < s.cfg.romDepth)
  then { s with rom := Rom.write s.rom addr.toNat data } else s

/-- The `prog_len` port: it is loaded while `rst` = 1 and has no effect otherwise (R281). -/
def progLenPort (n : RomIndex) (s : State) : State := if s.rst then { s with progLen := n } else s

/-- One free value has been taken (log entry 10). -/
def takeFree (s : State) : State := { s with freeCount := s.freeCount + 1 }

/-- The schedule after the turn that is being taken. -/
def setSchedule (ts : List Turn) (s : State) : State := { s with schedule := ts }

end Sys2Proof.Machine
end

