-- ==== Sys2Proof/Machine/Operands.lean ====
section
/-! DEFINITION. The one addressing mode, cursor-indirect (spec 20_memory.md R62), the bounds-checked
cursor move (42_cursor_moves.md R180 to R183) and the next-IP multiplexer (44_conditional_jump.md R222). -/

namespace Sys2Proof.Machine

/-- An access to the current cell: the step goes on with its value. In a state whose `CURSOR` is not
an index of the tape, which no run reaches (R23), the model stops by name (log entry 11). -/
def onCell (s : State) (k : Byte → Host.Outcome State Fault Refusal) :
    Host.Outcome State Fault Refusal :=
  if cursorInTape s then k (tapeRead s) else .fault .tapeIndexOutOfRange

/-- The eager bounds check of a move to the left: the target is not below 0 (R180). -/
def leftInBounds (s : State) (n : Nat) : Bool := decide (0 ≤ leftTarget s.cursor n)

/-- The eager bounds check of a move to the right: the target is not above `TAPE_LEN - 1` (R181). -/
def rightInBounds (s : State) (n : Nat) : Bool :=
  decide (rightTarget s.cursor n ≤ (s.cfg.tapeLen : Int) - 1)

/-- A checked cursor move: it goes to its target and advances, or it faults and moves nothing (R182,
R183). -/
def moveOr (inBounds : Bool) (target : Int) (c : Cause) (s : State) : State :=
  if inBounds then advance (setCursor target s) else raiseFault c s

/-- The next-IP multiplexer of a jump: `IP <- taken ? d : IP + 1` (R222). -/
def jumpMux (dir : Direction) (v : Byte) (d : Nat) (s : State) : State :=
  if jumpTaken dir (zeroDetect v) then jumpTo d s else advance s

end Sys2Proof.Machine
end

