-- ==== Sys2Proof/Machine/Arithmetic.lean ====
section
/-! DEFINITION. Cell arithmetic: INC, DEC, ZERO (spec 41_cell_arithmetic.md). -/

namespace Sys2Proof.Machine

/-- `INC n`: add `n` to the current cell, modulo 256 (R160). -/
def execInc (n : Nat) (s : State) : Host.Outcome State Fault Refusal :=
  onCell s fun v => .next (advance (tapeWrite (add8 v n) s))

/-- `DEC n`: subtract `n` from the current cell, modulo 256 (R161). -/
def execDec (n : Nat) (s : State) : Host.Outcome State Fault Refusal :=
  onCell s fun v => .next (advance (tapeWrite (sub8 v n) s))

/-- `ZERO`: set the current cell to 0 (R162). -/
def execZero (s : State) : Host.Outcome State Fault Refusal :=
  onCell s fun _ => .next (advance (tapeWrite 0 s))

end Sys2Proof.Machine
end

