-- ==== Sys2Proof/Machine/ByteIO.lean ====
section
/-! DEFINITION. Byte I/O: READ, WRITE (spec 43_byte_io.md). -/

namespace Sys2Proof.Machine

/-- `READ`: consume the waiting byte into the current cell; with none waiting, fault with
INPUT_EXHAUSTED at end of input, and hold with no state change otherwise (R200, R201). -/
def execRead (s : State) : Host.Outcome State Fault Refusal :=
  if s.inValid then onCell s fun _ => .next (advance (consumeInput (tapeWrite s.inData s)))
  else if s.inEof then .next (raiseFault .inputExhausted s)
  else .next s

/-- `WRITE`: emit the current cell as one output byte (R202, R203). -/
def execWrite (s : State) : Host.Outcome State Fault Refusal :=
  onCell s fun b => .next (advance (emit b s))

end Sys2Proof.Machine
end

