-- ==== Sys2Proof/Machine/CursorMoves.lean ====
section
/-! DEFINITION. Cursor moves: LEFT, RIGHT (spec 42_cursor_moves.md). -/

namespace Sys2Proof.Machine

/-- `LEFT n`: move the cursor `n` cells towards index 0, or fault with CURSOR_LEFT_OOB (R180). -/
def execLeft (n : Nat) (s : State) : Host.Outcome State Fault Refusal :=
  .next (moveOr (leftInBounds s n) (leftTarget s.cursor n) .cursorLeftOob s)

/-- `RIGHT n`: move the cursor `n` cells towards index `TAPE_LEN - 1`, or fault with CURSOR_RIGHT_OOB
(R181). -/
def execRight (n : Nat) (s : State) : Host.Outcome State Fault Refusal :=
  .next (moveOr (rightInBounds s n) (rightTarget s.cursor n) .cursorRightOob s)

end Sys2Proof.Machine
end

