-- ==== Sys2Proof/Machine/Jumps.lean ====
section
/-! DEFINITION. Conditional jumps: JMPF, JMPB (spec 44_conditional_jump.md). -/

namespace Sys2Proof.Machine

/-- `JMPF dest`: jump if the current cell is zero (R220). -/
def execJmpf (dest : Nat) (s : State) : Host.Outcome State Fault Refusal :=
  onCell s fun v => .next (jumpMux .forward v dest s)

/-- `JMPB dest`: jump if the current cell is not zero (R221). -/
def execJmpb (dest : Nat) (s : State) : Host.Outcome State Fault Refusal :=
  onCell s fun v => .next (jumpMux .backward v dest s)

end Sys2Proof.Machine
end

