-- ==== Sys2Proof/Machine/Dispatch.lean ====
section
/-! DEFINITION. The dispatch: one arm for each opcode (spec 40_execution_cycle.md R144). -/

namespace Sys2Proof.Machine

def exec (i : Instr) (s : State) : Host.Outcome State Fault Refusal :=
  match i with
  | .inc n => Sys2Proof.Machine.execInc n s
  | .dec n => Sys2Proof.Machine.execDec n s
  | .left n => Sys2Proof.Machine.execLeft n s
  | .right n => Sys2Proof.Machine.execRight n s
  | .zero => Sys2Proof.Machine.execZero s
  | .read => Sys2Proof.Machine.execRead s
  | .write => Sys2Proof.Machine.execWrite s
  | .jmpf dest => Sys2Proof.Machine.execJmpf dest s
  | .jmpb dest => Sys2Proof.Machine.execJmpb dest s

end Sys2Proof.Machine
end

