-- ==== Sys2Proof/Machine/Cycle.lean ====
section
/-! DEFINITION. The core's step: when there is one, the termination test, fetch, decode, dispatch (spec
40_execution_cycle.md R140 to R149). -/

namespace Sys2Proof.Machine

/-- Fetch, decode and dispatch (R142 to R144). In a state whose `IP` is below `PROG_LEN` but not below
`ROM_DEPTH`, which no run reaches (R142), the model stops by name (log entry 11). -/
def fetchAndExec (s : State) : Host.Outcome State Fault Refusal :=
  if s.ip.toNat < s.cfg.romDepth then
    match decode (fetchWord s) with
    | .instr i => exec i s
    | .illegal _ => .next (raiseFault .illegalInstruction s)
  else .fault .romIndexOutOfRange

/-- A step of a core that is running: the termination test comes first (R141; R247). -/
def runningStep (s : State) : Host.Outcome State Fault Refusal :=
  if s.progLen.toNat ≤ s.ip.toNat then .next (finish s) else fetchAndExec s

/-- The core's turn. With `rst` = 1, or in DONE or FAULT, there is no core step and nothing changes
(R140, R149); a hold at READ changes nothing either, and is `execRead`'s third case (R147; log
entry 8). -/
def coreStep (s : State) : Host.Outcome State Fault Refusal :=
  if s.rst then .next s
  else
    match s.status with
    | .run => runningStep s
    | .done => .next s
    | .fault => .next s

/-- The hold condition (R147). -/
def holds (s : State) : Bool :=
  s.status == .run && decide (s.ip.toNat < s.progLen.toNat) &&
    decode (fetchWord s) == .instr .read && !s.inValid && !s.inEof

/-- The core has a step exactly when `rst` = 0, `STATE` = RUN and the hold condition is false (R140). -/
def coreEnabled (s : State) : Bool := !s.rst && s.status == .run && !holds s

end Sys2Proof.Machine
end

