-- ==== Sys2Proof/Machine/HostMoves.lean ====
section
/-! DEFINITION. The host's moves: when each is enabled and what it does (spec 20_memory.md R75 to R82,
70_reset_and_hazards.md R280 to R283), and the boot sequence (R283). -/

namespace Sys2Proof.Machine

/-- When the host has a move (20_memory.md R75, R76, R78, R79, R82; R283). A readback is always
there, at an index that the port's `CUR_W` bits can hold (R36; 60_exceptions.md R262). -/
def moveEnabled (m : HostMove) (s : State) : Bool :=
  match m with
  | .present _ => !s.rst && !s.inValid && !s.inEof
  | .signalEof => !s.rst && !s.inEof
  | .assertReset => true
  | .releaseReset => s.rst
  | .loadWord _ _ => s.rst
  | .loadProgLen n => s.rst && decide (n.toNat ≤ s.cfg.romDepth)
  | .readTape a => decide (a.toNat < 2 ^ curW s.cfg)

/-- What a move does. -/
def moveEffect (m : HostMove) (s : State) : State :=
  match m with
  | .present b => presentByte b s
  | .signalEof => signalEof s
  | .assertReset => resetAll s
  | .releaseReset => releaseReset s
  | .loadWord a w => romPort a w s
  | .loadProgLen n => progLenPort n s
  | .readTape _ => takeFree s

/-- The host's turn. A move the host does not have is refused (R82; U7, U8; log entry 9). -/
def hostStep (m : HostMove) (s : State) : Host.Outcome State Fault Refusal :=
  if moveEnabled m s then .next (moveEffect m s) else .refused .hostMoveNotEnabled

/-- The moves that load an image from an index on, one word after the other (R283 (2)). -/
def loadMoves : Nat → List Word → List Turn
  | _, [] => []
  | k, w :: ws => .host (.loadWord (BitVec.ofNat 28 k) w) :: loadMoves (k + 1) ws

/-- What the host does before a run, in the order of R283: assert `rst`, write the image, set
`PROG_LEN`, release `rst`. -/
def bootSchedule (image : List Word) : List Turn :=
  .host .assertReset ::
    (loadMoves 0 image ++
      [.host (.loadProgLen (BitVec.ofNat 28 image.length)), .host .releaseReset])

end Sys2Proof.Machine
end

