-- ==== Sys2Proof/Machine/Step.lean ====
section
/-! DEFINITION. One step of the whole machine: the next turn of the schedule, the core's or the host's
(spec 00_scope.md R6; 60_exceptions.md R247). -/

namespace Sys2Proof.Machine

/-- One turn. The schedule is the input schedule of 93_implementation_defined.md U6; an empty one gives
the core every turn (log entry 7). -/
def step (s : State) : Host.Outcome State Fault Refusal :=
  match s.schedule with
  | [] => coreStep s
  | .core :: rest => coreStep (setSchedule rest s)
  | .host m :: rest => hostStep m (setSchedule rest s)

/-- The index a fetch is to read: `IP`, or 0 where `IP` is no index that a program can have. -/
def State.fetchIndex (s : State) : RomIndex :=
  if s.ip.toNat < min s.cfg.romDepth (2 ^ 28 - 1) then s.ip else 0

/-- The state with an instruction where the next step fetches: the word in the ROM at `IP`, `PROG_LEN`
above it, and what else a core step needs (`rst` = 0, `STATE` = RUN with no cause, a core turn). On
`State.reset` it loads the word at 0 and sets `PROG_LEN` to 1, as the host's LOAD would (log
entry 4). -/
def State.withFetchWord (s : State) (nbits w : Nat) : State :=
  { s with
    cfg := { s.cfg with romDepth := max s.cfg.romDepth 1 }
    rst := false
    ip := s.fetchIndex
    progLen := if s.fetchIndex.toNat < s.progLen.toNat then s.progLen else s.fetchIndex + 1
    rom := Rom.write s.rom s.fetchIndex.toNat (BitVec.ofNat 32 (w % 2 ^ nbits))
    status := .run
    cause := .none
    schedule := [] }

end Sys2Proof.Machine
end

