-- ==== Sys2Proof/Machine/Builder.lean ====
section
/-! DEFINITION. The ROM-image builder, the source's compiler (spec 30_encoding.md R110 to R124). It is no
part of the datapath (00_scope.md R4) and no step uses it; it stands beside the machine because it
"decides the ROM contents a program runs from" (log entry 17). -/

namespace Sys2Proof.Builder

/-- The role of a source character (R111). -/
inductive Role where
  | inc
  | dec
  | left
  | right
  | loopStart
  | loopEnd
  | read
  | write
  /-- Any other character (R112). -/
  | comment
deriving DecidableEq, Repr

/-- The spellings of R111; `,` is from general knowledge (G1; PRESUMED, log entry 17). -/
def roleOf (c : Char) : Role :=
  if c = '+' then .inc
  else if c = '-' then .dec
  else if c = '<' then .left
  else if c = '>' then .right
  else if c = '[' then .loopStart
  else if c = ']' then .loopEnd
  else if c = ',' then .read
  else if c = '.' then .write
  else .comment

/-- The translation errors (R120). -/
inductive BuildError where
  | unmatchedLoopEnd
  | unmatchedLoopStart
  | countRange
  | nestDepth
  | progRange
deriving DecidableEq, Repr

/-- What the builder answers: the image, whose length is `PROG_LEN`, or a refusal (R110). -/
inductive Built where
  | image (out : List Instr)
  | refused (e : BuildError)
deriving DecidableEq, Repr

/-- What the scan keeps: the output list and the pending-jump stack, top first (R113). -/
structure Scan where
  out : List Instr
  stk : List Nat
deriving DecidableEq, Repr

/-- One word more. -/
def Scan.append (i : Instr) (b : Scan) : Scan := { b with out := b.out ++ [i] }

/-- The number of leading characters with the role `r`. -/
def runLength (r : Role) : List Role → Nat
  | [] => 0
  | x :: xs => if x = r then runLength r xs + 1 else 0

/-- The opcode of a run of `n` characters, or a refusal (R114). -/
def runInstr (r : Role) (n : Nat) : Except BuildError (Option Instr) :=
  match r with
  | .inc => .ok (some (.inc (n % 256)))
  | .dec => .ok (some (.dec (n % 256)))
  | .left => if 2 ^ 28 - 1 < n then .error .countRange else .ok (some (.left n))
  | .right => if 2 ^ 28 - 1 < n then .error .countRange else .ok (some (.right n))
  | .loopStart => .ok none
  | .loopEnd => .ok none
  | .read => .ok none
  | .write => .ok none
  | .comment => .ok none

/-- Loop start: push `len(out)` and append the placeholder (R117). -/
def openLoop (maxNest : Nat) (b : Scan) : Except BuildError Scan :=
  if b.stk.length = maxNest then .error .nestDepth
  else .ok ⟨b.out ++ [.jmpf 0], b.out.length :: b.stk⟩

/-- Loop end: pop `k`, rewrite its forward jump to one past the backward jump, append the backward jump
(R118). -/
def closeLoop (b : Scan) : Except BuildError Scan :=
  match b.stk with
  | [] => .error .unmatchedLoopEnd
  | k :: stk => .ok ⟨b.out.set k (.jmpf (b.out.length + 1)) ++ [.jmpb k], stk⟩

/-- One word for a run of at least one character: the image grows by it. -/
def appendRun (r : Role) (n : Nat) (b : Scan) : Except BuildError Scan :=
  match runInstr r n with
  | .error e => .error e
  | .ok none => .ok b
  | .ok (some i) => .ok (b.append i)

/-- The idiom `[-]` stands at the head of the source (R116). -/
def zeroIdiom : List Role → Bool
  | .loopStart :: .dec :: .loopEnd :: _ => true
  | _ => false

/-- One turn of the scan at a non-empty source: what it makes and how many characters it takes (R114 to
R118). -/
def scanStep (maxNest : Nat) (src : List Role) (b : Scan) : Except BuildError Scan × Nat :=
  match src with
  | [] => (.ok b, 0)
  | .inc :: rest => (appendRun .inc (runLength .inc rest + 1) b, runLength .inc rest + 1)
  | .dec :: rest => (appendRun .dec (runLength .dec rest + 1) b, runLength .dec rest + 1)
  | .left :: rest => (appendRun .left (runLength .left rest + 1) b, runLength .left rest + 1)
  | .right :: rest => (appendRun .right (runLength .right rest + 1) b, runLength .right rest + 1)
  | .read :: _ => (.ok (b.append .read), 1)
  | .write :: _ => (.ok (b.append .write), 1)
  | .loopStart :: rest =>
    if zeroIdiom (.loopStart :: rest) then (.ok (b.append .zero), 3) else (openLoop maxNest b, 1)
  | .loopEnd :: _ => (closeLoop b, 1)
  | .comment :: _ => (.ok b, 1)

/-- The scan, "single left-to-right scan, one pass" (R113). Each turn takes at least one character, so
the source's length is fuel enough. -/
def scan (maxNest : Nat) : Nat → List Role → Scan → Except BuildError Scan
  | 0, _, b => .ok b
  | fuel + 1, src, b =>
    if src.isEmpty then .ok b
    else
      match scanStep maxNest src b with
      | (.error e, _) => .error e
      | (.ok b', n) => scan maxNest fuel (src.drop n) b'

/-- The end of the scan (R119). -/
def finishScan (romDepth : Nat) (b : Scan) : Built :=
  if b.stk ≠ [] then .refused .unmatchedLoopStart
  else if min romDepth (2 ^ 28 - 1) < b.out.length then .refused .progRange
  else .image b.out

/-- The builder on roles (R121). -/
def buildRoles (maxNest romDepth : Nat) (src : List Role) : Built :=
  match scan maxNest src.length src ⟨[], []⟩ with
  | .error e => .refused e
  | .ok b => finishScan romDepth b

/-- The builder in full: `build(src)` for a `MAX_NEST` and a `ROM_DEPTH` (R121). -/
def build (maxNest romDepth : Nat) (src : List Char) : Built :=
  buildRoles maxNest romDepth (src.map roleOf)

/-- How many loops a source leaves open after `d` open ones, and none where a loop end meets no open loop:
what the emptiness of the pending-jump stack tests (R118, R119), without a stack. The builder does not
use it. -/
def openLoops : Nat → List Role → Option Nat
  | d, [] => some d
  | d, r :: src =>
    match r with
    | .loopStart => openLoops (d + 1) src
    | .loopEnd => if d = 0 then none else openLoops (d - 1) src
    | .inc => openLoops d src
    | .dec => openLoops d src
    | .left => openLoops d src
    | .right => openLoops d src
    | .read => openLoops d src
    | .write => openLoops d src
    | .comment => openLoops d src

/-- The ROM words of an image; its length is `PROG_LEN` (R110). -/
def imageWords (out : List Instr) : List Word := out.map encode

/-- One turn of the naive scan: one word for each recognised character and a jump pair for every loop
(R123). -/
def naiveStep (maxNest : Nat) (r : Role) (b : Scan) : Except BuildError Scan :=
  match r with
  | .inc => .ok (b.append (.inc 1))
  | .dec => .ok (b.append (.dec 1))
  | .left => .ok (b.append (.left 1))
  | .right => .ok (b.append (.right 1))
  | .read => .ok (b.append .read)
  | .write => .ok (b.append .write)
  | .loopStart => openLoop maxNest b
  | .loopEnd => closeLoop b
  | .comment => .ok b

/-- The naive scan (R123). -/
def naiveScan (maxNest : Nat) : List Role → Scan → Except BuildError Scan
  | [], b => .ok b
  | r :: src, b =>
    match naiveStep maxNest r b with
    | .error e => .error e
    | .ok b' => naiveScan maxNest src b'

/-- The naive image of a source (R123). -/
def buildNaive (maxNest romDepth : Nat) (src : List Char) : Built :=
  match naiveScan maxNest (src.map roleOf) ⟨[], []⟩ with
  | .error e => .refused e
  | .ok b => finishScan romDepth b

end Sys2Proof.Builder
end

