-- ==== Sys2Proof/Machine/Ports.lean ====
section
/-! DEFINITION. The block's output ports as functions of the state (spec 10_state.md R35, R36;
60_exceptions.md R241, R262). The input ports are the host's moves. -/

namespace Sys2Proof.Machine

/-- The `state` port: the 2-bit value of `STATE` (R25). -/
def portState (s : State) : BitVec 2 :=
  match s.status with
  | .run => 0
  | .done => 1
  | .fault => 2

/-- The code of a cause (60_exceptions.md R241). -/
def causeCode (c : Cause) : BitVec 3 :=
  match c with
  | .none => 0
  | .cursorLeftOob => 1
  | .cursorRightOob => 2
  | .inputExhausted => 3
  | .illegalInstruction => 4

/-- The `cause` port (R26). -/
def portCause (s : State) : BitVec 3 := causeCode s.cause

/-- The `fault_ip` port (R27). -/
def portFaultIp (s : State) : BitVec 28 := s.faultIp

/-- The `ip` port (R20; R262). -/
def portIp (s : State) : BitVec 28 := s.ip

/-- The `cursor` port, `CUR_W` bits wide (R23; R262). -/
def portCursor (s : State) : BitVec (curW s.cfg) := s.cursor.setWidth (curW s.cfg)

/-- `in_req` = 1 exactly when the core is held at READ, in the words of R34, which do not speak of `rst`
(R35; 40_execution_cycle.md R147; log entry 15). -/
def portInReq (s : State) : Bool := holds s

/-- A core step in this state would execute this instruction. -/
def coreWouldExec (i : Instr) (s : State) : Bool :=
  coreEnabled s && decide (s.ip.toNat < s.progLen.toNat) && decode (fetchWord s) == .instr i

/-- `in_ack` pulses in a core step from this state: READ consumes the byte (R36; 43_byte_io.md R200;
log entry 15). -/
def portInAck (s : State) : Bool := coreWouldExec .read s && s.inValid

/-- `out_strobe`: a core step from this state is an output event (R36; 43_byte_io.md R202; log
entry 15). -/
def portOutStrobe (s : State) : Bool := coreWouldExec .write s

/-- `out_data`, the byte of that output event (43_byte_io.md R202); without one it is `OUT_DATA`, which
the host does not read (R29). -/
def portOutData (s : State) : Byte := if portOutStrobe s then tapeRead s else s.outData

/-- When the readback of a tape cell shows the cell (60_exceptions.md R262). -/
def readbackValid (a : TapeIndex) (s : State) : Bool :=
  !s.rst && s.status != .run && decide (a.toNat < s.cfg.tapeLen)

/-- `rb_data` for `rb_addr` = `a`: the cell, and any value where the readback is not valid (R262; U2). That
this value is a function of the state and the index, so that two looks in one state show the same byte, is
the model's choice (DESIGN CHOICE, log entry 10). -/
def portRbData (a : TapeIndex) (s : State) : Byte :=
  if readbackValid a s then Memory.read s.tape a.toNat else Config.freeReadback s a.toNat

/-- The result of a run that has stopped: the tuple (`STATE`, `CAUSE`, `FAULT_IP`, `IP`, `CURSOR`, `TAPE`,
output stream, input consumed); a run that is in `STATE` = RUN has none (20_memory.md R80;
40_execution_cycle.md R150). -/
def runResult (s : State) :
    Option (RunState × Cause × RomIndex × RomIndex × TapeIndex × Memory × List Byte × List Byte) :=
  match s.status with
  | .run => none
  | st => some (st, s.cause, s.faultIp, s.ip, s.cursor, s.tape, s.outStream, s.inConsumed)

end Sys2Proof.Machine
end

