-- ==== Sys2Proof/Machine/StepCount.lean ====
section
/-! DEFINITION. What the next turn is, and the count of a run's core steps and completed opcodes (spec
40_execution_cycle.md R140, R151). The counts are functions of a run; no step reads them. -/

namespace Sys2Proof.Machine

/-- The next turn is the host's RESET. -/
def State.nextIsReset (s : State) : Bool :=
  match s.schedule with
  | .host .assertReset :: _ => true
  | _ => false

/-- The next turn is the core's. -/
def State.nextIsCore (s : State) : Bool :=
  match s.schedule with
  | [] => true
  | .core :: _ => true
  | .host _ :: _ => false

/-- The next turn is a core step: it is the core's, and the core has a step (R140). A core turn in a
hold, in DONE or FAULT, or with `rst` = 1 is none (R147, R149; log entry 8). -/
def isCoreStep (s : State) : Bool := s.nextIsCore && coreEnabled s

/-- The opcode that the next turn executes and completes. The termination test, a step that faults and a
turn that is no core step complete none (R151). -/
def completedOpcode (s : State) : Option Instr :=
  if isCoreStep s && decide (s.ip.toNat < s.progLen.toNat) then
    match decode (fetchWord s), step s with
    | .instr i, .next t => if t.status == .run then some i else none
    | _, _ => none
  else none

/-- How many of the next `k` turns are core steps (R151: "Holds are not steps"). -/
def coreSteps : Nat → State → Nat
  | 0, _ => 0
  | k + 1, s =>
    match step s with
    | .next t => (if isCoreStep s then 1 else 0) + coreSteps k t
    | .fault _ => 0
    | .refused _ => 0

/-- The opcodes that the next `k` turns complete, in their order (R151). -/
def completedOpcodes : Nat → State → List Instr
  | 0, _ => []
  | k + 1, s =>
    match step s with
    | .next t => (completedOpcode s).toList ++ completedOpcodes k t
    | .fault _ => []
    | .refused _ => []

end Sys2Proof.Machine
end

