-- ==== Sys2Proof/Safety.lean ====
section
/-! DEFINITION. What a legal state is: the facts the spec gives of every state a run can reach, as one
invariant with named fields (spec 10_state.md R21 to R29, 40_execution_cycle.md R149, 60_exceptions.md
R246, 70_reset_and_hazards.md R280). -/

namespace Sys2Proof.Machine

/-- While `rst` = 1 the state is that of reset, but for what the host loads (R280, R281). -/
structure State.AtReset (s : State) : Prop where
  status : s.status = .run
  ip : s.ip = 0
  cursor : s.cursor = 0
  tape : s.tape = []
  inValid : s.inValid = false
  inEof : s.inEof = false
  outStream : s.outStream = []
  inConsumed : s.inConsumed = []

/-- The invariant of the machine. -/
structure State.Inv (s : State) : Prop where
  /-- The parameters are in the ranges of R5. -/
  config : s.cfg.valid
  /-- `CURSOR < TAPE_LEN` (R23). -/
  cursor : s.cursor.toNat < s.cfg.tapeLen
  /-- The tape is in its canonical form. -/
  tapeWf : s.tape.wf
  /-- No cell outside the tape is listed (R22). -/
  tapeRange : ∀ p ∈ s.tape, p.1 < s.cfg.tapeLen
  /-- The ROM is in its canonical form. -/
  romWf : s.rom.wf
  /-- No word outside the ROM is listed (R24). -/
  romRange : ∀ p ∈ s.rom, p.1 < s.cfg.romDepth
  /-- `PROG_LEN <= ROM_DEPTH` (R21; D31). -/
  progLen : s.progLen.toNat ≤ s.cfg.romDepth
  /-- `CAUSE` is NONE exactly when `STATE` is not FAULT (R26). -/
  cause : s.status = .fault ↔ s.cause ≠ .none
  /-- In FAULT, `IP` = `FAULT_IP` names the faulting opcode (R246). -/
  faultIp : s.status = .fault → s.faultIp = s.ip
  /-- Outside FAULT, `FAULT_IP` has its reset value (R27). -/
  noFaultIp : s.status ≠ .fault → s.faultIp = 0
  /-- In DONE, `IP` has reached the end of the program (R141, R149). -/
  doneIp : s.status = .done → s.progLen.toNat ≤ s.ip.toNat
  /-- In FAULT, `IP` names an opcode of the program (R247). -/
  faultInProgram : s.status = .fault → s.ip.toNat < s.progLen.toNat
  /-- `OUT_DATA` holds the byte most recently emitted (R29). -/
  outData : ∀ b ∈ s.outStream.getLast?, s.outData = b
  /-- While `rst` = 1 the core has taken no step (R280). -/
  atReset : s.rst = true → s.AtReset

/-- Every cell but the one at an index reads in `t` as it did in `s`. -/
def sameCellsBut (a : Nat) (s t : State) : Prop :=
  ∀ b, b ≠ a → Memory.read t.tape b = Memory.read s.tape b

/-- The next turn is a host move that the host does not have in this state (20_memory.md R82). -/
def State.nextMoveBad (s : State) : Bool :=
  match s.schedule with
  | .host m :: rest => !moveEnabled m (setSchedule rest s)
  | _ => false

/-- None of the next `k` turns is the host's RESET: they belong to one run (R150). -/
abbrev State.noResetWithin (k : Nat) (s : State) : Prop :=
  ∀ turn ∈ s.schedule.take k, turn ≠ .host .assertReset

/-- The state as the core's turn finds it: that turn is taken off the schedule. -/
def State.afterTurn (s : State) : State := setSchedule s.schedule.tail s

/-- A core turn in this state executes an opcode or finds an illegal word: `rst` = 0, `STATE` = RUN and
`IP < PROG_LEN` (R140 to R142). -/
abbrev State.fetches (s : State) : Prop :=
  s.rst = false ∧ s.status = .run ∧ s.ip.toNat < s.progLen.toNat

end Sys2Proof.Machine
end

