-- ==== Sys2Proof/Certificates/Slice0/Obligations.lean ====
section
/-! DEFINITION. The statements for the provers, each from the numbered rules of the spec. -/

open Sys2Proof Sys2Proof.Machine Sys2Proof.Builder

/-! ### Encoding (30_encoding.md, 20_memory.md R65) -/

/-- R90 to R93, R97: no bit of an encoding is dropped; the decoder reads back every well-formed
instruction with every operand. -/
def Obligations.DecodeReadsBackEveryEncoding : Prop :=
  ∀ i : Instr, i.wellFormed = true → decode (encode i) = .instr i

/-- R93, R97: each word has one meaning; a word that decodes is the encoding of what it decodes to, which
is well-formed. -/
def Obligations.EncodeRebuildsEveryDecodedWord : Prop :=
  ∀ (w : Word) (i : Instr), decode w = .instr i → i.wellFormed = true ∧ encode i = w

/-- R93: a word encodes an instruction exactly when `(w AND mask) = match` for its row, and at most one
row matches any word. -/
def Obligations.OpcodeMapIsMaskAndMatch : Prop :=
  ∀ w : Word,
    (w &&& 0xFFFFFF00#32 = 0x10000000#32 ↔ ∃ n, decode w = .instr (.inc n)) ∧
    (w &&& 0xFFFFFF00#32 = 0x20000000#32 ↔ ∃ n, decode w = .instr (.dec n)) ∧
    (w &&& 0xF0000000#32 = 0x30000000#32 ↔ ∃ n, decode w = .instr (.left n)) ∧
    (w &&& 0xF0000000#32 = 0x40000000#32 ↔ ∃ n, decode w = .instr (.right n)) ∧
    (w &&& 0xFFFFFFFF#32 = 0x50000000#32 ↔ decode w = .instr .zero) ∧
    (w &&& 0xFFFFFFFF#32 = 0x60000000#32 ↔ decode w = .instr .read) ∧
    (w &&& 0xFFFFFFFF#32 = 0x70000000#32 ↔ decode w = .instr .write) ∧
    (w &&& 0xF0000000#32 = 0x80000000#32 ↔ ∃ d, decode w = .instr (.jmpf d)) ∧
    (w &&& 0xF0000000#32 = 0x90000000#32 ↔ ∃ d, decode w = .instr (.jmpb d)) ∧
    (matchingRows w).length ≤ 1 ∧
    ((matchingRows w).length = 1 ↔ ∃ i, decode w = .instr i)

/-- R96, R143: which words are illegal, that the all-zero word is one, and that executing one raises
ILLEGAL_INSTRUCTION with no other effect. -/
def Obligations.IllegalWordsAreExactlyThose : Prop :=
  (∀ w : Word, (∃ why, decode w = .illegal why) ↔
    ((w.extractLsb' 28 4).toNat = 0 ∨ 0xA ≤ (w.extractLsb' 28 4).toNat) ∨
    (((w.extractLsb' 28 4).toNat = 1 ∨ (w.extractLsb' 28 4).toNat = 2) ∧ w.extractLsb' 8 20 ≠ 0) ∨
    (((w.extractLsb' 28 4).toNat = 5 ∨ (w.extractLsb' 28 4).toNat = 6 ∨
        (w.extractLsb' 28 4).toNat = 7) ∧ w.extractLsb' 0 28 ≠ 0)) ∧
  (∃ why, decode 0#32 = .illegal why) ∧
  ∀ (s : State) (why : IllegalWord), s.fetches → s.progLen.toNat ≤ s.cfg.romDepth →
    decode (Rom.read s.rom s.ip.toNat) = .illegal why →
    coreStep s =
      .next { s with status := .fault, cause := .illegalInstruction, faultIp := s.ip }

/-- Words written out from R91 and R93, each with what it stands for (95_test_vectors.md 2.1). -/
def Obligations.SampleWordsDecodeAsWritten : Prop :=
  decode 0x10000004#32 = .instr (.inc 4) ∧ decode 0x20000000#32 = .instr (.dec 0) ∧
  decode 0x3FFFFFFF#32 = .instr (.left 268435455) ∧ decode 0x40000000#32 = .instr (.right 0) ∧
  decode 0x50000000#32 = .instr .zero ∧ decode 0x60000000#32 = .instr .read ∧
  decode 0x70000000#32 = .instr .write ∧ decode 0x8000000D#32 = .instr (.jmpf 13) ∧
  decode 0x9FFFFFFF#32 = .instr (.jmpb 268435455)

/-- R94: `op` = 0x8 is Forward and 0x9 is Backward, bit 28 is the direction bit and bits 31:29 are
`100`. -/
def Obligations.JumpDirectionIsBitTwentyEight : Prop :=
  ∀ d : Nat,
    (encode (.jmpf d)).extractLsb' 28 4 = 0x8#4 ∧ (encode (.jmpb d)).extractLsb' 28 4 = 0x9#4 ∧
    (encode (.jmpf d)).getLsbD 28 = false ∧ (encode (.jmpb d)).getLsbD 28 = true ∧
    (encode (.jmpf d)).extractLsb' 29 3 = 0b100#3 ∧ (encode (.jmpb d)).extractLsb' 29 3 = 0b100#3

/-- R65: a ROM image as bytes is little-endian, four bytes a word, word 0 first, and reading it back
gives the image. -/
def Obligations.ImageBytesAreLittleEndian : Prop :=
  ∀ ws : List Word,
    (imageBytes ws).length = 4 * ws.length ∧
    (∀ (k j : Nat) (hk : k < ws.length), j < 4 →
      (imageBytes ws)[4 * k + j]? = some (ws[k].extractLsb' (8 * j) 8)) ∧
    imageOfBytes (imageBytes ws) = some ws

/-! ### Cell arithmetic (41_cell_arithmetic.md) -/

/-- R163: the data ALU adds and subtracts modulo 256, with its three laws, and its instructions raise
nothing. -/
def Obligations.CellAluWrapsModulo256 : Prop :=
  (∀ (v : Byte) (n : Nat), n < 256 →
    (add8 v n).toNat = (v.toNat + n) % 256 ∧
    ((sub8 v n).toNat : Int) = ((v.toNat : Int) - n) % 256 ∧
    (1 ≤ n → sub8 v n = add8 v (256 - n))) ∧
  (∀ (v : Byte) (a b : Nat), add8 (add8 v a) b = add8 v ((a + b) % 256)) ∧
  (∀ v : Byte, add8 v 0 = v ∧ sub8 v 0 = v) ∧
  sub8 0 1 = 255 ∧
  ∀ (s t : State) (n : Nat), exec (.inc n) s = .next t ∨ exec (.dec n) s = .next t →
    t.status = s.status ∧ t.cause = s.cause ∧ t.faultIp = s.faultIp

/-- R160: the encoding of INC, that it completes, its result and its frame. -/
def Obligations.IncAddsToCurrentCell : Prop :=
  (∀ n, n < 256 → decode (0x10000000#32 ||| BitVec.ofNat 32 n) = .instr (.inc n)) ∧
  (∀ w : Word, w.extractLsb' 28 4 = 1#4 → w.extractLsb' 8 20 ≠ 0 →
    decode w = .illegal .deltaField) ∧
  ∀ (s : State) (n : Nat), n < 256 → s.cursor.toNat < s.cfg.tapeLen →
    ∃ t, exec (.inc n) s = .next t ∧
      (Memory.read t.tape s.cursor.toNat).toNat =
        ((Memory.read s.tape s.cursor.toNat).toNat + n) % 256 ∧
      sameCellsBut s.cursor.toNat s t ∧
      t.ip = s.ip + 1 ∧ t = { s with tape := t.tape, ip := t.ip }

/-- R161: the encoding of DEC, that it completes, its result and its frame. -/
def Obligations.DecSubtractsFromCurrentCell : Prop :=
  (∀ n, n < 256 → decode (0x20000000#32 ||| BitVec.ofNat 32 n) = .instr (.dec n)) ∧
  (∀ w : Word, w.extractLsb' 28 4 = 2#4 → w.extractLsb' 8 20 ≠ 0 →
    decode w = .illegal .deltaField) ∧
  ∀ (s : State) (n : Nat), n < 256 → s.cursor.toNat < s.cfg.tapeLen →
    ∃ t, exec (.dec n) s = .next t ∧
      (Memory.read t.tape s.cursor.toNat).toNat =
        ((Memory.read s.tape s.cursor.toNat).toNat + 256 - n) % 256 ∧
      sameCellsBut s.cursor.toNat s t ∧
      t.ip = s.ip + 1 ∧ t = { s with tape := t.tape, ip := t.ip }

/-- R162: the encoding of ZERO, that it completes, its result and its frame. (That it equals the loop it
replaces is `ZeroEqualsTheLoopItReplaces`.) -/
def Obligations.ZeroClearsCurrentCell : Prop :=
  (∀ w : Word, w.extractLsb' 28 4 = 5#4 →
    decode w = if w = 0x50000000#32 then .instr .zero else .illegal .operandField) ∧
  ∀ s : State, s.cursor.toNat < s.cfg.tapeLen →
    ∃ t, exec .zero s = .next t ∧
      Memory.read t.tape s.cursor.toNat = 0 ∧
      sameCellsBut s.cursor.toNat s t ∧
      t.ip = s.ip + 1 ∧ t = { s with tape := t.tape, ip := t.ip }

/-- R162, R294: where the ROM holds the loop that `[-]` would be, a running core leaves it after `3v` steps
for a cell value `v` (one step for 0), with the effect of ZERO but for `IP`. -/
def Obligations.ZeroEqualsTheLoopItReplaces : Prop :=
  ∀ (s : State) (k : Nat),
    s.rst = false → s.status = .run → s.schedule = [] →
    s.cursor.toNat < s.cfg.tapeLen → s.progLen.toNat ≤ s.cfg.romDepth →
    s.ip.toNat = k → k + 3 ≤ s.progLen.toNat →
    decode (Rom.read s.rom k) = .instr (.jmpf (k + 3)) →
    decode (Rom.read s.rom (k + 1)) = .instr (.dec 1) →
    decode (Rom.read s.rom (k + 2)) = .instr (.jmpb k) →
    ∃ t : State,
      Host.Core.run core (if Memory.read s.tape s.cursor.toNat = 0 then 1
        else 3 * (Memory.read s.tape s.cursor.toNat).toNat) s = .next t ∧
      Memory.read t.tape s.cursor.toNat = 0 ∧ sameCellsBut s.cursor.toNat s t ∧
      t.ip.toNat = k + 3 ∧ t = { s with tape := t.tape, ip := t.ip }

/-- R114, R163: two counted opcodes on the same cell do what one opcode with their sum modulo 256 does, but
for `IP`: "`n` repeated units are exactly equivalent to one opcode carrying count `n`". -/
def Obligations.CountedDeltasAddUp : Prop :=
  ∀ (s : State) (a b : Nat), a < 256 → b < 256 → s.cursor.toNat < s.cfg.tapeLen →
    ∃ t u t' u' v v' : State,
      exec (.inc a) s = .next t ∧ exec (.inc b) t = .next u ∧
      exec (.inc ((a + b) % 256)) s = .next v ∧
      (∀ x, Memory.read u.tape x = Memory.read v.tape x) ∧
      u = { v with tape := u.tape, ip := s.ip + 2 } ∧
      exec (.dec a) s = .next t' ∧ exec (.dec b) t' = .next u' ∧
      exec (.dec ((a + b) % 256)) s = .next v' ∧
      (∀ x, Memory.read u'.tape x = Memory.read v'.tape x) ∧
      u' = { v' with tape := u'.tape, ip := s.ip + 2 }

/-! ### Cursor moves (42_cursor_moves.md) -/

/-- R180: the encoding of LEFT; in bounds it completes and moves, out of bounds it faults with code 1 and
moves nothing. -/
def Obligations.LeftMovesOrFaults : Prop :=
  (∀ n, n < 2 ^ 28 → decode (0x30000000#32 ||| BitVec.ofNat 32 n) = .instr (.left n)) ∧
  (∀ w : Word, w.extractLsb' 28 4 = 3#4 → decode w = .instr (.left (w.extractLsb' 0 28).toNat)) ∧
  (∀ (s : State) (n : Nat), n ≤ s.cursor.toNat →
    ∃ t, exec (.left n) s = .next t ∧ t.cursor.toNat = s.cursor.toNat - n ∧
      t.ip = s.ip + 1 ∧ t = { s with cursor := t.cursor, ip := t.ip }) ∧
  ∀ (s : State) (n : Nat), s.cursor.toNat < n →
    exec (.left n) s =
      .next { s with status := .fault, cause := .cursorLeftOob, faultIp := s.ip }

/-- R181: the encoding of RIGHT; in bounds it completes and moves, out of bounds it faults with code 2 and
moves nothing; the sum never wraps. -/
def Obligations.RightMovesOrFaults : Prop :=
  (∀ n, n < 2 ^ 28 → decode (0x40000000#32 ||| BitVec.ofNat 32 n) = .instr (.right n)) ∧
  (∀ w : Word, w.extractLsb' 28 4 = 4#4 → decode w = .instr (.right (w.extractLsb' 0 28).toNat)) ∧
  (∀ (s : State) (n : Nat), s.cfg.valid → s.cursor.toNat + n ≤ s.cfg.tapeLen - 1 →
    ∃ t, exec (.right n) s = .next t ∧ t.cursor.toNat = s.cursor.toNat + n ∧
      t.ip = s.ip + 1 ∧ t = { s with cursor := t.cursor, ip := t.ip }) ∧
  ∀ (s : State) (n : Nat), s.cfg.valid → s.cfg.tapeLen - 1 < s.cursor.toNat + n →
    exec (.right n) s =
      .next { s with status := .fault, cause := .cursorRightOob, faultIp := s.ip }

/-- R182: a move is in bounds exactly when its target, an unbounded integer, lies in the tape; then the
cursor is the target, and otherwise the run faults with the cursor as it was: never wrapped, clamped or
truncated. -/
def Obligations.CursorMoveIsNeverWrappedOrClamped : Prop :=
  ∀ (s t : State) (n : Nat) (target : Int), s.cfg.valid → s.cursor.toNat < s.cfg.tapeLen →
    s.status = .run →
    (target = (s.cursor.toNat : Int) - n ∧ exec (.left n) s = .next t ∨
     target = (s.cursor.toNat : Int) + n ∧ exec (.right n) s = .next t) →
    ((0 ≤ target ∧ target ≤ (s.cfg.tapeLen : Int) - 1) →
      t.status = .run ∧ (t.cursor.toNat : Int) = target) ∧
    (¬ (0 ≤ target ∧ target ≤ (s.cfg.tapeLen : Int) - 1) → t.status = .fault ∧ t.cursor = s.cursor)

/-- R183: the check is eager. A running core at a move out of the tape faults at the move itself, whatever
the program holds after it: however many turns follow, the run stays there with no cell touched. (That
a core turn in FAULT is there at all, as a step that changes nothing, is the model's choice, log
entry 8; R149 says that the core has no step there.) -/
def Obligations.EagerCheckStopsAtTheMove : Prop :=
  ∀ (s : State) (n k : Nat), s.fetches → s.progLen.toNat ≤ s.cfg.romDepth → s.schedule = [] →
    (decode (Rom.read s.rom s.ip.toNat) = .instr (.left n) ∧ s.cursor.toNat < n →
      Host.Core.run core (k + 1) s =
        .next { s with status := .fault, cause := .cursorLeftOob, faultIp := s.ip }) ∧
    (decode (Rom.read s.rom s.ip.toNat) = .instr (.right n) ∧ s.cfg.tapeLen ≤ s.cursor.toNat + n →
      Host.Core.run core (k + 1) s =
        .next { s with status := .fault, cause := .cursorRightOob, faultIp := s.ip })

/-! ### Byte I/O (43_byte_io.md) -/

/-- R200: the encoding of READ, that it consumes the waiting byte (also when end of input has been
signalled), faults at end of input, and holds otherwise, each with its frame. After the byte is consumed
`IN_DATA` is any value (U1), so nothing is said of it; that it is a free value which moves the model's
count on is log entry 10's choice. That a hold is a step that changes nothing is log entry 8's. -/
def Obligations.ReadConsumesOrFaultsOrHolds : Prop :=
  (∀ w : Word, w.extractLsb' 28 4 = 6#4 →
    decode w = if w = 0x60000000#32 then .instr .read else .illegal .operandField) ∧
  (∀ s : State, s.inValid = true → s.cursor.toNat < s.cfg.tapeLen →
    ∃ t, exec .read s = .next t ∧
      Memory.read t.tape s.cursor.toNat = s.inData ∧ sameCellsBut s.cursor.toNat s t ∧
      t.inValid = false ∧ t.inConsumed = s.inConsumed ++ [s.inData] ∧ t.ip = s.ip + 1 ∧
      t = { s with tape := t.tape, inValid := t.inValid, inData := t.inData,
                   inConsumed := t.inConsumed, ip := t.ip, freeCount := t.freeCount }) ∧
  (∀ s : State, s.inValid = false → s.inEof = true →
    exec .read s = .next { s with status := .fault, cause := .inputExhausted, faultIp := s.ip }) ∧
  ∀ s : State, s.inValid = false → s.inEof = false → exec .read s = .next s

/-- R202, R203: the encoding of WRITE, that it completes, that it emits the current cell at the end of the
output stream, and its frame: no cell changes. -/
def Obligations.WriteEmitsCurrentCell : Prop :=
  (∀ w : Word, w.extractLsb' 28 4 = 7#4 →
    decode w = if w = 0x70000000#32 then .instr .write else .illegal .operandField) ∧
  ∀ s : State, s.cursor.toNat < s.cfg.tapeLen →
    ∃ t, exec .write s = .next t ∧
      t.outData = Memory.read s.tape s.cursor.toNat ∧
      t.outStream = s.outStream ++ [Memory.read s.tape s.cursor.toNat] ∧ t.ip = s.ip + 1 ∧
      t = { s with outData := t.outData, outStream := t.outStream, ip := t.ip }

/-- R67, R71, R203: but for RESET, a step leaves the output stream as it is or appends the current cell, in a
core turn at a WRITE; and leaves the input consumed as it is or appends the waiting byte, in a core
turn at a READ. -/
def Obligations.StreamsGrowOnlyByWriteAndRead : Prop :=
  ∀ s t : State, step s = .next t → s.nextIsReset = false →
    (t.outStream = s.outStream ∨
      (s.nextIsCore = true ∧ s.fetches ∧ decode (Rom.read s.rom s.ip.toNat) = .instr .write ∧
        t.outStream = s.outStream ++ [Memory.read s.tape s.cursor.toNat])) ∧
    (t.inConsumed = s.inConsumed ∨
      (s.nextIsCore = true ∧ s.fetches ∧ decode (Rom.read s.rom s.ip.toNat) = .instr .read ∧
        s.inValid = true ∧ t.inConsumed = s.inConsumed ++ [s.inData] ∧ t.inValid = false))

/-- R36, R200, R202: `in_ack` is 1 exactly for a core step that consumes a byte, and `out_strobe` exactly
for one that emits a byte, which is then `out_data`. (That the two are functions of the state before
the step is the model's choice, log entry 15.) -/
def Obligations.PulsesMarkConsumedAndEmittedBytes : Prop :=
  ∀ s t : State, coreStep s = .next t →
    (portInAck s = true ↔ t.inConsumed ≠ s.inConsumed) ∧
    (portOutStrobe s = true ↔ t.outStream ≠ s.outStream) ∧
    (portOutStrobe s = true → t.outStream = s.outStream ++ [portOutData s])

/-! ### Conditional jumps (44_conditional_jump.md) -/

/-- R220: the encoding of JMPF, that it completes, where it goes, and its frame: no cell and no other
register changes. -/
def Obligations.JmpfJumpsOnZero : Prop :=
  (∀ d, d < 2 ^ 28 → decode (0x80000000#32 ||| BitVec.ofNat 32 d) = .instr (.jmpf d)) ∧
  (∀ w : Word, w.extractLsb' 28 4 = 8#4 → decode w = .instr (.jmpf (w.extractLsb' 0 28).toNat)) ∧
  ∀ (s : State) (d : Nat), d < 2 ^ 28 → s.cursor.toNat < s.cfg.tapeLen →
    (Memory.read s.tape s.cursor.toNat = 0 →
      ∃ t, exec (.jmpf d) s = .next t ∧ t.ip.toNat = d ∧ t = { s with ip := t.ip }) ∧
    (Memory.read s.tape s.cursor.toNat ≠ 0 → exec (.jmpf d) s = .next { s with ip := s.ip + 1 })

/-- R221: the encoding of JMPB, that it completes, where it goes, and its frame. -/
def Obligations.JmpbJumpsOnNonZero : Prop :=
  (∀ d, d < 2 ^ 28 → decode (0x90000000#32 ||| BitVec.ofNat 32 d) = .instr (.jmpb d)) ∧
  (∀ w : Word, w.extractLsb' 28 4 = 9#4 → decode w = .instr (.jmpb (w.extractLsb' 0 28).toNat)) ∧
  ∀ (s : State) (d : Nat), d < 2 ^ 28 → s.cursor.toNat < s.cfg.tapeLen →
    (Memory.read s.tape s.cursor.toNat ≠ 0 →
      ∃ t, exec (.jmpb d) s = .next t ∧ t.ip.toNat = d ∧ t = { s with ip := t.ip }) ∧
    (Memory.read s.tape s.cursor.toNat = 0 → exec (.jmpb d) s = .next { s with ip := s.ip + 1 })

/-- R222, R148: the next-IP multiplexer over all instructions that complete on a running core (a READ that
holds does not complete), and that a step that faults leaves `IP` as it was. -/
def Obligations.NextIpMultiplexer : Prop :=
  ∀ (i : Instr) (s t : State), s.status = .run → exec i s = .next t →
    (t.status = .fault → t.ip = s.ip) ∧
    (t.status = .run → ¬ (i = .read ∧ s.inValid = false) →
      t.ip = match i with
        | .jmpf d => if Memory.read s.tape s.cursor.toNat = 0 then BitVec.ofNat 28 d else s.ip + 1
        | .jmpb d => if Memory.read s.tape s.cursor.toNat ≠ 0 then BitVec.ofNat 28 d else s.ip + 1
        | _ => s.ip + 1)

/-- R148, R20: in a legal state the sequential advance never wraps, and no step changes `IP` but RESET, the
advance, and a taken jump, which loads its destination. -/
def Obligations.IpChangesOnlyByAdvanceJumpOrReset : Prop :=
  ∀ s t : State, s.Inv → step s = .next t → t.ip ≠ s.ip →
    s.nextIsReset = true ∧ t.ip = 0 ∨
    s.nextIsCore = true ∧ s.fetches ∧
      (t.ip.toNat = s.ip.toNat + 1 ∨
       (∃ d, decode (Rom.read s.rom s.ip.toNat) = .instr (.jmpf d) ∧
          Memory.read s.tape s.cursor.toNat = 0 ∧ t.ip.toNat = d) ∨
       (∃ d, decode (Rom.read s.rom s.ip.toNat) = .instr (.jmpb d) ∧
          Memory.read s.tape s.cursor.toNat ≠ 0 ∧ t.ip.toNat = d))

/-- R223, R141: a taken jump to a destination at or past `PROG_LEN` is followed as it stands, and the next
step ends the run in DONE with `IP` at that destination and nothing else changed. -/
def Obligations.JumpPastTheEndTerminates : Prop :=
  ∀ (s : State) (d : Nat), s.fetches → s.progLen.toNat ≤ s.cfg.romDepth → s.schedule = [] →
    s.cursor.toNat < s.cfg.tapeLen → s.progLen.toNat ≤ d →
    (decode (Rom.read s.rom s.ip.toNat) = .instr (.jmpf d) ∧ Memory.read s.tape s.cursor.toNat = 0 ∨
     decode (Rom.read s.rom s.ip.toNat) = .instr (.jmpb d) ∧ Memory.read s.tape s.cursor.toNat ≠ 0) →
    d < 2 ^ 28 ∧
    Host.Core.run core 2 s = .next { s with ip := BitVec.ofNat 28 d, status := .done }

/-! ### The execution cycle (40_execution_cycle.md) -/

/-- R144, R142: on a core turn, when the word at `IP` decodes to `i`, the step is `exec i` at the state whose
schedule has moved on by that turn. -/
def Obligations.StepRunsTheDecodedInstruction : Prop :=
  ∀ (s : State) (i : Instr), s.nextIsCore = true → s.fetches → s.progLen.toNat ≤ s.cfg.romDepth →
    decode (Rom.read s.rom s.ip.toNat) = .instr i → step s = exec i s.afterTurn

/-- R141: the termination test comes first; past the end of the program the step sets DONE and changes
nothing else, whatever the ROM holds. With `PROG_LEN` = 0 that is the first step. -/
def Obligations.TerminationSetsDoneAndNothingElse : Prop :=
  ∀ s : State, s.nextIsCore = true → s.rst = false → s.status = .run →
    s.progLen.toNat ≤ s.ip.toNat → step s = .next { s.afterTurn with status := .done }

/-- R140: the core has a step exactly when `rst` = 0, `STATE` = RUN and it does not hold; without one a core
turn changes nothing. (That such a turn is there at all, as a step that changes nothing, is the
model's choice, log entry 8.) -/
def Obligations.CoreWithoutStepChangesNothing : Prop :=
  ∀ s : State, s.progLen.toNat ≤ s.cfg.romDepth →
    (coreEnabled s = true ↔ s.rst = false ∧ s.status = .run ∧
      ¬ (s.ip.toNat < s.progLen.toNat ∧ decode (Rom.read s.rom s.ip.toNat) = .instr .read ∧
          s.inValid = false ∧ s.inEof = false)) ∧
    (coreEnabled s = false → coreStep s = .next s)

/-- R147, R35: in a hold `in_req` is 1 and the core's turn changes nothing; PRESENT(b) lifts it, and the READ
then consumes `b`; SIGNAL_EOF lifts it, and the READ then faults; RESET lifts it; no other move of the
host does. (That a core turn in a hold is there at all, as a step that changes nothing, is the model's
choice, log entry 8.) -/
def Obligations.HoldIsLiftedOnlyByTheHost : Prop :=
  ∀ s : State, holds s = true → s.rst = false → s.progLen.toNat ≤ s.cfg.romDepth →
    s.cursor.toNat < s.cfg.tapeLen →
    portInReq s = true ∧ coreStep s = .next s ∧
    (∀ b, ∃ u t, hostStep (.present b) s = .next u ∧ coreStep u = .next t ∧
      Memory.read t.tape s.cursor.toNat = b ∧ t.inValid = false ∧ t.ip = s.ip + 1 ∧
      t.inConsumed = s.inConsumed ++ [b]) ∧
    (∃ u, hostStep .signalEof s = .next u ∧
      coreStep u = .next { u with status := .fault, cause := .inputExhausted, faultIp := s.ip }) ∧
    (∃ u, hostStep .assertReset s = .next u ∧ u.rst = true ∧ u.ip = 0) ∧
    ∀ m u, hostStep m s = .next u → holds u = true ∨
      (∃ b, m = .present b) ∨ m = .signalEof ∨ m = .assertReset

/-- R149, R25: in DONE and FAULT the core has no step, and no host action except RESET changes `STATE`,
`IP`, `CURSOR` or `TAPE`. (That a core turn there is a step that changes nothing is the model's choice, log
entry 8.) -/
def Obligations.TerminalStatesAreLeftOnlyByReset : Prop :=
  ∀ s t : State, s.status ≠ .run → step s = .next t →
    coreEnabled s = false ∧ (s.nextIsCore = true → t = s.afterTurn) ∧
    (s.nextIsReset = false →
      t.status = s.status ∧ t.ip = s.ip ∧ t.cursor = s.cursor ∧ t.tape = s.tape)

/-! ### Faults (60_exceptions.md) -/

/-- R245, R246: on a legal running machine a step that ends in FAULT is the core's, and it writes exactly
`STATE`, `CAUSE` and `FAULT_IP` (and takes its turn off the model's schedule); `IP` = `FAULT_IP` names
the faulting opcode, which lies in the program, and the core has no further step. -/
def Obligations.FaultsArePrecise : Prop :=
  ∀ s t : State, s.Inv → s.status ≠ .fault → step s = .next t → t.status = .fault →
    s.nextIsCore = true ∧ s.fetches ∧
    (∃ c, c ≠ .none ∧ t = { s.afterTurn with status := .fault, cause := c, faultIp := s.ip }) ∧
    t.ip = t.faultIp ∧ t.ip.toNat < t.progLen.toNat ∧ coreEnabled t = false

/-- R241: a running core's turn records each code exactly on its condition, with `FAULT_IP` the index of the
opcode; the cursor, the cells and the word itself stay. -/
def Obligations.CauseCodesNameTheirConditions : Prop :=
  ∀ s t : State, s.Inv → s.fetches → coreStep s = .next t →
    (portCause t = 1 ↔
      ∃ n, decode (Rom.read s.rom s.ip.toNat) = .instr (.left n) ∧ s.cursor.toNat < n) ∧
    (portCause t = 2 ↔
      ∃ n, decode (Rom.read s.rom s.ip.toNat) = .instr (.right n) ∧
        s.cfg.tapeLen - 1 < s.cursor.toNat + n) ∧
    (portCause t = 3 ↔
      decode (Rom.read s.rom s.ip.toNat) = .instr .read ∧ s.inValid = false ∧ s.inEof = true) ∧
    (portCause t = 4 ↔ ∃ why, decode (Rom.read s.rom s.ip.toNat) = .illegal why) ∧
    (portCause t = 0 ↔ t.status ≠ .fault) ∧
    (t.status = .fault →
      portFaultIp t = s.ip ∧ t.cursor = s.cursor ∧ t.tape = s.tape ∧ t.rom = s.rom)

/-- R242: INC, DEC, ZERO, WRITE and the jumps never fault: from every state whose cursor is in the tape they
complete, with `STATE`, `CAUSE` and `FAULT_IP` as they were. -/
def Obligations.ArithmeticWriteAndJumpsNeverFault : Prop :=
  ∀ (i : Instr) (s : State), s.cursor.toNat < s.cfg.tapeLen →
    (∀ n, i ≠ .left n) → (∀ n, i ≠ .right n) → i ≠ .read →
    ∃ t, exec i s = .next t ∧ t.status = s.status ∧ t.cause = s.cause ∧ t.faultIp = s.faultIp

/-- R247: the order of the tests in a core step: termination wins over everything, then the illegal word,
then the instruction's own condition, and inside READ a waiting byte wins over end of input. (That a
hold is a step that changes nothing is the model's choice, log entry 8; that `IN_DATA` takes a free
value when the byte is consumed is log entry 10's, for U1's any value.) -/
def Obligations.TestsAreMadeInOrder : Prop :=
  ∀ s : State, s.rst = false → s.status = .run → s.progLen.toNat ≤ s.cfg.romDepth →
    s.cursor.toNat < s.cfg.tapeLen →
    coreStep s =
      if s.progLen.toNat ≤ s.ip.toNat then .next { s with status := .done }
      else match decode (Rom.read s.rom s.ip.toNat) with
        | .illegal _ =>
          .next { s with status := .fault, cause := .illegalInstruction, faultIp := s.ip }
        | .instr (.left n) =>
          if s.cursor.toNat < n
          then .next { s with status := .fault, cause := .cursorLeftOob, faultIp := s.ip }
          else exec (.left n) s
        | .instr (.right n) =>
          if s.cfg.tapeLen ≤ s.cursor.toNat + n
          then .next { s with status := .fault, cause := .cursorRightOob, faultIp := s.ip }
          else exec (.right n) s
        | .instr .read =>
          if s.inValid then
            .next { s with
              tape := Memory.write s.tape s.cursor.toNat s.inData
              inValid := false
              inData := Config.freeByte s.freeCount
              inConsumed := s.inConsumed ++ [s.inData]
              ip := s.ip + 1
              freeCount := s.freeCount + 1 }
          else if s.inEof
            then .next { s with status := .fault, cause := .inputExhausted, faultIp := s.ip }
          else .next s
        | .instr i => exec i s

/-! ### Frames and the whole machine -/

/-- R62, R23, R28, R29, R33: what each instruction may change, by its shape, and that no cell but the
current one changes. (`IN_DATA` is any value once READ has consumed the byte, U1; the model's count of
free values moves on with it, log entry 10.) -/
def Obligations.EachInstructionKeepsItsFrame : Prop :=
  ∀ (i : Instr) (s t : State), exec i s = .next t →
    sameCellsBut s.cursor.toNat s t ∧
    match i with
    | .inc _ => t = { s with tape := t.tape, ip := t.ip }
    | .dec _ => t = { s with tape := t.tape, ip := t.ip }
    | .zero => t = { s with tape := t.tape, ip := t.ip }
    | .left _ => t = { s with cursor := t.cursor, ip := t.ip, status := t.status, cause := t.cause,
                              faultIp := t.faultIp }
    | .right _ => t = { s with cursor := t.cursor, ip := t.ip, status := t.status, cause := t.cause,
                               faultIp := t.faultIp }
    | .read =>
      (s.inValid = true → t = { s with tape := t.tape, ip := t.ip, inValid := t.inValid,
                                       inData := t.inData, inConsumed := t.inConsumed,
                                       freeCount := t.freeCount }) ∧
      (s.inValid = false → t = { s with status := t.status, cause := t.cause, faultIp := t.faultIp })
    | .write => t = { s with outData := t.outData, outStream := t.outStream, ip := t.ip }
    | .jmpf _ => t = { s with ip := t.ip }
    | .jmpb _ => t = { s with ip := t.ip }

/-- R62: no opcode reads a cell other than the current one: on two tapes with the same current cell an
instruction does the same, writes the same cell value, and stops together. -/
def Obligations.OnlyTheCurrentCellIsRead : Prop :=
  ∀ (i : Instr) (s : State) (tape' : Memory),
    Memory.read tape' s.cursor.toNat = Memory.read s.tape s.cursor.toNat →
    (∀ t, exec i s = .next t → ∃ t', exec i { s with tape := tape' } = .next t' ∧
      t' = { t with tape := t'.tape } ∧
      Memory.read t'.tape s.cursor.toNat = Memory.read t.tape s.cursor.toNat) ∧
    ((∀ t, exec i s ≠ .next t) → ∀ t, exec i { s with tape := tape' } ≠ .next t)

/-- R21, R24, R74, R79, R291: no step changes the parameters, and while `rst` = 0 no step, the core's or the
host's, changes the ROM or `PROG_LEN`; the core's never does. -/
def Obligations.ProgramIsImmutableDuringARun : Prop :=
  ∀ s t : State, step s = .next t →
    t.cfg = s.cfg ∧ (s.rst = false ∨ s.nextIsCore = true → t.rom = s.rom ∧ t.progLen = s.progLen)

/-- R28, R75, R76: but for RESET, `IN_EOF` is never cleared and is set only by SIGNAL_EOF; `IN_VALID` is
cleared only in a core turn at a READ and set only by PRESENT, with the byte presented, never after end of
input; and a waiting byte stays as it was presented. The last clause, on `IN_DATA` while `IN_VALID` = 0, is
the model's choice (log entry 10): U1 calls it any value there, and the model changes it only as READ
consumes the byte and at RESET. -/
def Obligations.InputRegisterIsWrittenOnlyAsStated : Prop :=
  ∀ s t : State, step s = .next t → s.nextIsReset = false →
    (s.inEof = true → t.inEof = true) ∧
    (s.inEof = false → t.inEof = true →
      ∃ rest, s.schedule = .host .signalEof :: rest ∧ s.rst = false) ∧
    (s.inValid = true → t.inValid = false →
      s.nextIsCore = true ∧ s.fetches ∧ decode (Rom.read s.rom s.ip.toNat) = .instr .read) ∧
    (s.inValid = false → t.inValid = true →
      ∃ rest, s.schedule = .host (.present t.inData) :: rest ∧ s.inEof = false ∧ s.rst = false) ∧
    (s.inValid = true → t.inValid = true → t.inData = s.inData) ∧
    (t.inData ≠ s.inData →
      (s.inValid = false ∧ t.inValid = true) ∨ (s.inValid = true ∧ t.inValid = false))

/-- The invariant holds of the machine right after reset. (The model's choices in `State.reset`, log entries
1, 3, 4 and 7, are part of it.) -/
def Obligations.ResetStateIsLegal : Prop := State.reset.Inv

/-- The invariant: every step keeps it, from every state that has it and under every schedule (R5, R21 to R29,
R141, R246, R280). -/
def Obligations.EveryStepKeepsTheMachineLegal : Prop :=
  ∀ s t : State, s.Inv → step s = .next t → t.Inv

/-- R142, R242, R23: from a legal state no step stops the model, on any program and any input: a fetch and a
tape access never leave their space. The one exception is a scheduled host move that the host does
not have (R82), which is refused (the model's choice, log entry 9). (That a core turn with `rst` = 1, in
DONE, in FAULT or in a hold, where the spec says there is no step, answers a next state too is the
model's choice, log entry 8.) -/
def Obligations.LegalMachineNeverStops : Prop :=
  ∀ s : State, s.Inv →
    (s.nextMoveBad = false → ∃ t, step s = .next t) ∧
    (s.nextMoveBad = true → step s = .refused .hostMoveNotEnabled)

/-! ### Reset, loading and the host (20_memory.md, 70_reset_and_hazards.md) -/

/-- R37: the values the spec gives for the state after reset, in `State.reset`. -/
def Obligations.ResetStateHasTheStatedValues : Prop :=
  State.reset.ip = 0 ∧ State.reset.cursor = 0 ∧ (∀ a, Memory.read State.reset.tape a = 0) ∧
  portState State.reset = 0 ∧ portCause State.reset = 0 ∧ State.reset.faultIp = 0 ∧
  State.reset.inValid = false ∧ State.reset.inEof = false ∧
  State.reset.outStream = [] ∧ State.reset.inConsumed = []

/-- R280, R78, R37: RESET is accepted in every state; it sets every piece of state to its reset value, keeps the
ROM and `PROG_LEN`, restarts the streams empty; and while `rst` = 1 the core takes no step. -/
def Obligations.ResetMoveSetsEveryResetValue : Prop :=
  ∀ (s : State) (rest : List Turn), s.schedule = .host .assertReset :: rest →
    ∃ t, step s = .next t ∧
      t.rst = true ∧ t.ip = 0 ∧ t.cursor = 0 ∧ (∀ a, Memory.read t.tape a = 0) ∧
      t.status = .run ∧ t.cause = .none ∧ t.faultIp = 0 ∧ t.inValid = false ∧ t.inEof = false ∧
      t.rom = s.rom ∧ t.progLen = s.progLen ∧ t.cfg = s.cfg ∧
      t.outStream = [] ∧ t.inConsumed = [] ∧ t.schedule = rest ∧
      coreEnabled t = false

/-- R75: when PRESENT(b) is enabled and what it does; where it is not, the host has no such move. (That the
model then refuses is its choice, log entry 9; that PRESENT is enabled in DONE and FAULT as in RUN is
deduced from R75, which does not speak of `STATE`, log entry 14.) -/
def Obligations.PresentSetsTheInputRegister : Prop :=
  ∀ (s : State) (b : Byte) (rest : List Turn), s.schedule = .host (.present b) :: rest →
    (s.rst = false ∧ s.inValid = false ∧ s.inEof = false →
      step s = .next { s with inValid := true, inData := b, schedule := rest }) ∧
    (¬ (s.rst = false ∧ s.inValid = false ∧ s.inEof = false) → ∀ t, step s ≠ .next t)

/-- R76: when SIGNAL_EOF is enabled and what it does, also while a byte waits; and that it is sticky: once
`IN_EOF` = 1, however many turns a run takes with no RESET among them, `IN_EOF` is 1, PRESENT is enabled
for no byte, and SIGNAL_EOF is not enabled again. (That the model refuses a move the host does not have is
log entry 9's choice; that both moves are enabled in DONE and FAULT as in RUN is log entry 14's.) -/
def Obligations.SignalEofIsStickyUntilReset : Prop :=
  (∀ (s : State) (rest : List Turn), s.schedule = .host .signalEof :: rest →
    (s.rst = false ∧ s.inEof = false →
      step s = .next { s with inEof := true, schedule := rest }) ∧
    (¬ (s.rst = false ∧ s.inEof = false) → ∀ t, step s ≠ .next t)) ∧
  ∀ (k : Nat) (s t : State), s.inEof = true → s.noResetWithin k → Host.Core.run core k s = .next t →
    t.inEof = true ∧ (∀ b, moveEnabled (.present b) t = false) ∧ moveEnabled .signalEof t = false

/-- R281, R79: while `rst` = 1 a ROM word is written below `ROM_DEPTH` and has no effect at or above it, and
`PROG_LEN` is set up to `ROM_DEPTH`; with `rst` = 0 the ports have no effect and the host has no such
move. -/
def Obligations.LoadingWorksOnlyUnderReset : Prop :=
  ∀ (s : State) (a n : RomIndex) (w : Word),
    (s.rst = true → ∃ t, hostStep (.loadWord a w) s = .next t ∧
      (a.toNat < s.cfg.romDepth → Rom.read t.rom a.toNat = w) ∧
      (s.cfg.romDepth ≤ a.toNat → t = s) ∧
      (∀ b, b ≠ a.toNat → Rom.read t.rom b = Rom.read s.rom b) ∧ t = { s with rom := t.rom }) ∧
    (s.rst = true → n.toNat ≤ s.cfg.romDepth →
      hostStep (.loadProgLen n) s = .next { s with progLen := n }) ∧
    (s.rst = true → s.cfg.romDepth < n.toNat → ∀ t, hostStep (.loadProgLen n) s ≠ .next t) ∧
    (s.rst = false → romPort a w s = s ∧ progLenPort n s = s ∧
      (∀ t, hostStep (.loadWord a w) s ≠ .next t) ∧ ∀ t, hostStep (.loadProgLen n) s ≠ .next t)

/-- R283, R282: from any state, what the host does before a run (assert `rst`, write the image, set `PROG_LEN`,
release `rst`) leaves the machine at its entry point with exactly that image loaded. -/
def Obligations.BootLoadsTheImage : Prop :=
  ∀ (s : State) (image : List Word), s.cfg.valid → image.length ≤ s.cfg.romDepth →
    ∃ t : State,
      Host.Core.run core (image.length + 3) { s with schedule := bootSchedule image } = .next t ∧
      (∀ (k : Nat) (hk : k < image.length), Rom.read t.rom k = image[k]) ∧
      t.progLen.toNat = image.length ∧ t.rst = false ∧ t.status = .run ∧ t.ip = 0 ∧ t.cursor = 0 ∧
      (∀ a, Memory.read t.tape a = 0) ∧ t.cause = .none ∧ t.inValid = false ∧ t.inEof = false ∧
      t.outStream = [] ∧ t.inConsumed = [] ∧ t.cfg = s.cfg ∧ t.schedule = []

/-- R262: the readback shows the cell when `rst` = 0, `STATE` is DONE or FAULT and the index is in the tape
(and is any value otherwise, so nothing is said there); the other ports show their registers at any
time; and a readback changes nothing but the model's count of free values. -/
def Obligations.ReadbackShowsTheTapeAfterTheRun : Prop :=
  (∀ (s : State) (a : TapeIndex), s.rst = false → s.status = .done ∨ s.status = .fault →
    a.toNat < s.cfg.tapeLen → portRbData a s = Memory.read s.tape a.toNat) ∧
  (∀ s : State, portIp s = s.ip ∧ portFaultIp s = s.faultIp ∧
    (s.Inv → (portCursor s).toNat = s.cursor.toNat) ∧
    (portState s = 0 ↔ s.status = .run) ∧ (portState s = 1 ↔ s.status = .done) ∧
    (portState s = 2 ↔ s.status = .fault) ∧
    (portCause s = 0 ↔ s.cause = .none) ∧ (portCause s = 1 ↔ s.cause = .cursorLeftOob) ∧
    (portCause s = 2 ↔ s.cause = .cursorRightOob) ∧ (portCause s = 3 ↔ s.cause = .inputExhausted) ∧
    (portCause s = 4 ↔ s.cause = .illegalInstruction)) ∧
  ∀ (s : State) (a : TapeIndex), a.toNat < 2 ^ curW s.cfg →
    hostStep (.readTape a) s = .next { s with freeCount := s.freeCount + 1 }

/-- R248, R149: no host move but RESET touches `IP`, `CURSOR`, the tape, `STATE`, `CAUSE`, `FAULT_IP` or the
streams: the host changes registers between core steps and never changes control flow. -/
def Obligations.HostNeverChangesControlFlow : Prop :=
  ∀ (m : HostMove) (s t : State), hostStep m s = .next t → m ≠ .assertReset →
    t.ip = s.ip ∧ t.cursor = s.cursor ∧ t.tape = s.tape ∧ t.status = s.status ∧
    t.cause = s.cause ∧ t.faultIp = s.faultIp ∧ t.outData = s.outData ∧
    t.outStream = s.outStream ∧ t.inConsumed = s.inConsumed

/-! ### The ROM-image builder (30_encoding.md R110 to R124; outside the datapath, log entry 17) -/

/-- R114: a run of `R` identical characters builds one word that carries the count, modulo 256 for a delta; a
move count above 2^28 - 1 is refused with COUNT_RANGE. -/
def Obligations.RunBuildsOneCountedWord : Prop :=
  ∀ (maxNest romDepth R : Nat), 1 ≤ R → 1 ≤ romDepth →
    build maxNest romDepth (List.replicate R '+') = .image [.inc (R % 256)] ∧
    build maxNest romDepth (List.replicate R '-') = .image [.dec (R % 256)] ∧
    (R ≤ 2 ^ 28 - 1 → build maxNest romDepth (List.replicate R '<') = .image [.left R] ∧
      build maxNest romDepth (List.replicate R '>') = .image [.right R]) ∧
    (2 ^ 28 - 1 < R → build maxNest romDepth (List.replicate R '<') = .refused .countRange ∧
      build maxNest romDepth (List.replicate R '>') = .refused .countRange)

/-- R118, R119, R120: every source whose loops do not match is refused, so that it gives no image: one with a
loop end that meets no open loop by UNMATCHED_LOOP_END and one that leaves a loop open by
UNMATCHED_LOOP_START, unless the scan has met a COUNT_RANGE or a NEST_DEPTH before; a source no longer than
`MAX_NEST` and 2^28 - 1 meets neither. A source that begins with a loop end meets neither either, whatever its
length. And a source whose loops match is never refused by these two. (The builder is outside the datapath,
log entry 17.) -/
def Obligations.UnmatchedLoopsAreRefused : Prop :=
  ∀ (maxNest romDepth : Nat) (src : List Char),
    (openLoops 0 (src.map roleOf) = none →
      build maxNest romDepth src = .refused .unmatchedLoopEnd ∨
      build maxNest romDepth src = .refused .countRange ∨
      build maxNest romDepth src = .refused .nestDepth) ∧
    (∀ d, openLoops 0 (src.map roleOf) = some (d + 1) →
      build maxNest romDepth src = .refused .unmatchedLoopStart ∨
      build maxNest romDepth src = .refused .countRange ∨
      build maxNest romDepth src = .refused .nestDepth) ∧
    (src.length ≤ maxNest → src.length ≤ 2 ^ 28 - 1 →
      (openLoops 0 (src.map roleOf) = none →
        build maxNest romDepth src = .refused .unmatchedLoopEnd) ∧
      ∀ d, openLoops 0 (src.map roleOf) = some (d + 1) →
        build maxNest romDepth src = .refused .unmatchedLoopStart) ∧
    build maxNest romDepth (']' :: src) = .refused .unmatchedLoopEnd ∧
    (openLoops 0 (src.map roleOf) = some 0 →
      build maxNest romDepth src ≠ .refused .unmatchedLoopEnd ∧
      build maxNest romDepth src ≠ .refused .unmatchedLoopStart)

/-- R110, R119: every image the builder makes fits the ROM, and every word of it decodes to the instruction it
was built as, so no built image holds an illegal word. -/
def Obligations.BuiltImagesAreLegalAndFit : Prop :=
  ∀ (maxNest romDepth : Nat) (src : List Char) (out : List Instr),
    build maxNest romDepth src = .image out →
    out.length ≤ romDepth ∧ out.length ≤ 2 ^ 28 - 1 ∧
    ∀ i ∈ out, i.wellFormed = true ∧ decode (encode i) = .instr i

/-- R122: in every image the builder makes, jumps pair like parentheses: a forward jump's destination is one past
its backward jump, a backward jump's is its forward jump, two pairs never cross, and every
destination is at most `PROG_LEN`. -/
def Obligations.BuiltJumpsPairLikeParentheses : Prop :=
  ∀ (maxNest romDepth : Nat) (src : List Char) (out : List Instr),
    build maxNest romDepth src = .image out →
    (∀ k d : Nat, out[k]? = some (.jmpf d) → ∃ b, k < b ∧ d = b + 1 ∧ out[b]? = some (.jmpb k)) ∧
    (∀ b k : Nat, out[b]? = some (.jmpb k) → k < b ∧ out[k]? = some (.jmpf (b + 1))) ∧
    (∀ b k b' k' : Nat, out[b]? = some (.jmpb k) → out[b']? = some (.jmpb k') → k < k' → k' < b →
      b' < b) ∧
    (∀ k d : Nat, out[k]? = some (.jmpf d) ∨ out[k]? = some (.jmpb d) → d ≤ out.length)

/-! ### The step count (40_execution_cycle.md R151) -/

/-- R151: a run takes one core step for each opcode it completes, and one more for the termination test when
it reaches DONE and for the faulting step when it reaches FAULT; holds are not steps. The count is over
any number of turns with no RESET among them, the host's turns included; turns in which the core has no
step (log entry 8) are not counted. What the count counts is said beside it: which turns complete an
opcode, and that the turns which end a run are core steps that complete none. -/
def Obligations.RunTakesOneCoreStepForEachOpcode : Prop :=
  (∀ (k : Nat) (s t : State), s.status = .run → s.noResetWithin k → Host.Core.run core k s = .next t →
    (t.status = .run → coreSteps k s = (completedOpcodes k s).length) ∧
    (t.status = .done → coreSteps k s = (completedOpcodes k s).length + 1) ∧
    (t.status = .fault → coreSteps k s = (completedOpcodes k s).length + 1)) ∧
  (∀ s : State, holds s = true → isCoreStep s = false ∧ completedOpcode s = none) ∧
  (∀ (s : State) (i : Instr), completedOpcode s = some i ↔
    s.nextIsCore = true ∧ s.fetches ∧ holds s = false ∧
      decode (Rom.read s.rom s.ip.toNat) = .instr i ∧ ∃ t, step s = .next t ∧ t.status = .run) ∧
  ∀ s t : State, s.status = .run → step s = .next t → t.status ≠ .run →
    isCoreStep s = true ∧ completedOpcode s = none ∧
    (t.status = .done ↔ s.progLen.toNat ≤ s.ip.toNat) ∧ ∀ k, t.noResetWithin k → coreSteps k t = 0
end

