-- ==== Sys2Proof/Laws/Builder.lean ====
section
/-! SUPPORT. What one turn of the builder's scan does to the open loops. -/

namespace Sys2Proof.Builder

variable {maxNest d : Nat} {r : Role} {b : Scan} {src rest : List Role}

@[simp] theorem openLoops_nil : openLoops d [] = some d := rfl

@[simp] theorem openLoops_loopStart : openLoops d (.loopStart :: rest) = openLoops (d + 1) rest := rfl

@[simp] theorem openLoops_loopEnd_zero : openLoops 0 (.loopEnd :: rest) = none := rfl

@[simp] theorem openLoops_loopEnd_succ : openLoops (d + 1) (.loopEnd :: rest) = openLoops d rest := rfl

/-- A character that is no loop's leaves the open loops. -/
theorem openLoops_other (hs : r ≠ .loopStart) (he : r ≠ .loopEnd) :
    openLoops d (r :: rest) = openLoops d rest := by
  cases r <;> first | rfl | contradiction

/-- A run that is no loop's leaves the open loops. -/
theorem openLoops_drop_runLength (hs : r ≠ .loopStart) (he : r ≠ .loopEnd) (src : List Role) :
    openLoops d (src.drop (runLength r src)) = openLoops d src := by
  induction src with
  | nil => rfl
  | cons x xs ih =>
    simp only [runLength]
    split
    · next h => subst h; rw [List.drop_succ_cons, ih, openLoops_other hs he]
    · rfl

theorem runLength_le (r : Role) (src : List Role) : runLength r src ≤ src.length := by
  induction src with
  | nil => exact Nat.le_refl 0
  | cons x xs ih => simp only [runLength, List.length_cons]; split <;> omega

/-- A run's word leaves the pending jumps; a refused run is a move longer than 2^28 - 1. -/
theorem appendRun_cases (r : Role) (n : Nat) (b : Scan) :
    (∃ b', appendRun r n b = .ok b' ∧ b'.stk = b.stk) ∨
    (appendRun r n b = .error .countRange ∧ 2 ^ 28 - 1 < n) := by
  unfold appendRun
  by_cases hn : 2 ^ 28 - 1 < n
  · cases r <;> first
      | exact .inl ⟨_, rfl, rfl⟩
      | exact .inr ⟨by rw [runInstr, if_pos hn], hn⟩
  · cases r <;> first
      | exact .inl ⟨_, rfl, rfl⟩
      | exact .inl ⟨b.append _, by rw [runInstr, if_neg hn], rfl⟩

/-- What a turn of the scan does to the open loops: it goes on with as many open loops as pending jumps, or it
refuses a loop end that meets none, a loop start too deep, or a run too long. -/
inductive ScanEffect (maxNest : Nat) (src : List Role) (b : Scan) : Except BuildError Scan × Nat → Prop
  | goesOn (b' : Scan) (n : Nat) (h1 : 1 ≤ n) (hn : n ≤ src.length)
      (hlen : b'.stk.length ≤ b.stk.length + n)
      (hopen : openLoops b'.stk.length (src.drop n) = openLoops b.stk.length src) :
      ScanEffect maxNest src b (.ok b', n)
  | noOpenLoop (n : Nat) (h : openLoops b.stk.length src = none) :
      ScanEffect maxNest src b (.error .unmatchedLoopEnd, n)
  | tooDeep (n : Nat) (h : b.stk.length = maxNest) : ScanEffect maxNest src b (.error .nestDepth, n)
  | tooLong (n : Nat) (h : 2 ^ 28 - 1 < src.length) : ScanEffect maxNest src b (.error .countRange, n)

/-- A run of characters that are no loop's. -/
theorem scanEffect_run (hs : r ≠ .loopStart) (he : r ≠ .loopEnd) :
    ScanEffect maxNest (r :: rest) b
      (appendRun r (runLength r rest + 1) b, runLength r rest + 1) := by
  have hle := runLength_le r rest
  rcases appendRun_cases r (runLength r rest + 1) b with ⟨b', h5, h6⟩ | ⟨h5, h6⟩ <;> rw [h5]
  · refine .goesOn b' _ (by omega) (by simp; omega) (by rw [h6]; omega) ?_
    rw [h6, List.drop_succ_cons, openLoops_drop_runLength hs he, openLoops_other hs he]
  · exact .tooLong _ (by simp; omega)

/-- Whatever a turn of the scan answers at a non-empty source is one of the effects. -/
theorem scanStep_effect (hsrc : src ≠ []) : ScanEffect maxNest src b (scanStep maxNest src b) := by
  cases src with
  | nil => exact absurd rfl hsrc
  | cons r rest =>
    cases r with
    | inc => exact scanEffect_run nofun nofun
    | dec => exact scanEffect_run nofun nofun
    | left => exact scanEffect_run nofun nofun
    | right => exact scanEffect_run nofun nofun
    | read => exact .goesOn _ 1 (by simp) (by simp) (by simp [Scan.append]) rfl
    | write => exact .goesOn _ 1 (by simp) (by simp) (by simp [Scan.append]) rfl
    | comment => exact .goesOn _ 1 (by simp) (by simp) (by simp) rfl
    | loopEnd =>
      simp only [scanStep, closeLoop]
      split
      · next hb => exact .noOpenLoop 1 (by simp [hb])
      · next k stk hb => exact .goesOn _ 1 (by simp) (by simp) (by simp [hb]; omega) (by simp [hb])
    | loopStart =>
      simp only [scanStep]
      split
      · next hz =>
        unfold zeroIdiom at hz
        split at hz
        · next e =>
          injection e with _ e
          subst e
          exact .goesOn _ 3 (by simp) (by simp) (by simp [Scan.append]) rfl
        · cases hz
      · unfold openLoop
        split
        · exact .tooDeep 1 ‹_›
        · exact .goesOn _ 1 (by simp) (by simp) (by simp) (by simp)

end Sys2Proof.Builder
end

