-- ==== Sys2Proof/Laws/Decode.lean ====
section
/-! SUPPORT. The fields of a packed word, a word from its fields, and that whatever the decoder answers is
well-formed. -/

namespace Sys2Proof

theorem bits_lt (w : Word) (hi lo : Nat) : bits w hi lo < 2 ^ (hi - lo + 1) :=
  Nat.mod_lt _ (Nat.two_pow_pos _)

theorem packWord_toNat (op n : Nat) (h : op < 16) :
    (packWord op n).toNat = op * 2 ^ 28 + n % 2 ^ 28 := by
  simp only [packWord, BitVec.toNat_ofNat]
  omega

theorem bits_packWord_opcode (op n : Nat) (h : op < 16) : bits (packWord op n) 31 28 = op := by
  simp only [bits, packWord_toNat op n h]
  omega

theorem bits_packWord_operand (op n : Nat) (h : op < 16) :
    bits (packWord op n) 27 0 = n % 2 ^ 28 := by
  simp only [bits, packWord_toNat op n h]
  omega

theorem bits_packWord_delta (op n : Nat) (h : op < 16) : bits (packWord op n) 7 0 = n % 2 ^ 8 := by
  simp only [bits, packWord_toNat op n h]
  omega

theorem bits_packWord_deltaField (op n : Nat) (h : op < 16) :
    bits (packWord op n) 27 8 = n % 2 ^ 28 / 2 ^ 8 := by
  simp only [bits, packWord_toNat op n h]
  omega

/-- A field as a number and as an extract of the word. -/
theorem bits_opcode_eq (w : Word) : bits w 31 28 = (w.extractLsb' 28 4).toNat := by
  simp [bits, BitVec.extractLsb'_toNat, Nat.shiftRight_eq_div_pow]

theorem bits_operand_eq (w : Word) : bits w 27 0 = (w.extractLsb' 0 28).toNat := by
  simp [bits, BitVec.extractLsb'_toNat, Nat.shiftRight_eq_div_pow]

theorem bits_deltaField_eq (w : Word) : bits w 27 8 = (w.extractLsb' 8 20).toNat := by
  simp [bits, BitVec.extractLsb'_toNat, Nat.shiftRight_eq_div_pow]

/-- A word is the pack of its two fields. -/
theorem packWord_bits (w : Word) : packWord (bits w 31 28) (bits w 27 0) = w := by
  apply BitVec.eq_of_toNat_eq
  rw [packWord_toNat _ _ (bits_lt w 31 28)]
  have := w.isLt
  simp only [bits]
  omega

/-- Where the upper part of the operand field is 0, the operand is the delta. -/
theorem bits_operand_of_deltaField (w : Word) (h : bits w 27 8 = 0) : bits w 27 0 = bits w 7 0 := by
  simp only [bits] at *
  omega

theorem decodeD8_instr {mk : Nat → Instr} {w : Word} {i : Instr} :
    decodeD8 mk w = .instr i ↔ bits w 27 8 = 0 ∧ mk (bits w 7 0) = i := by
  unfold decodeD8; split <;> simp_all

theorem decodeN_instr {j : Instr} {w : Word} {i : Instr} :
    decodeN j w = .instr i ↔ bits w 27 0 = 0 ∧ j = i := by
  unfold decodeN; split <;> simp_all

theorem decodeWhole_instr {mk : Nat → Instr} {w : Word} {i : Instr} :
    decodeWhole mk w = .instr i ↔ mk (bits w 27 0) = i := by
  simp [decodeWhole]

/-- Everything the decoder can answer: an instruction, with its opcode and its fields. -/
theorem decode_instr_cases {w : Word} {i : Instr} (h : decode w = .instr i) :
    bits w 31 28 = i.opcode ∧ bits w 27 0 = i.operand ∧
      (i.opcode ≤ 2 → bits w 27 8 = 0 ∧ bits w 7 0 = i.operand) := by
  unfold decode at h
  split at h <;> rename_i hop
  case h_10 => cases h
  case h_1 | h_2 =>
    obtain ⟨h0, rfl⟩ := decodeD8_instr.1 h
    exact ⟨hop, bits_operand_of_deltaField w h0, fun _ => ⟨h0, rfl⟩⟩
  case h_5 | h_6 | h_7 =>
    obtain ⟨h0, rfl⟩ := decodeN_instr.1 h
    exact ⟨hop, h0, fun h => absurd h (by decide)⟩
  all_goals
    obtain rfl := decodeWhole_instr.1 h
    exact ⟨hop, rfl, fun h => absurd h (by simp [Instr.opcode])⟩

/-- Whatever the decoder answers fits its fields. -/
theorem decode_wellFormed {w : Word} {i : Instr} (h : decode w = .instr i) : i.wellFormed = true := by
  obtain ⟨-, h28, h8⟩ := decode_instr_cases h
  have hb := bits_lt w 27 0
  have hd := bits_lt w 7 0
  cases i <;> simp only [Instr.wellFormed, Instr.opcode, Instr.operand, decide_eq_true_eq] at * <;> omega

end Sys2Proof
end

