-- ==== Sys2Proof/Laws/Memory.lean ====
section
/-! SUPPORT. The laws of the two sparse memories: a read after a write, and that a write keeps the
canonical form and the range of the listed indices. -/

namespace Sys2Proof.Machine

section Sparse

variable {α : Type} (dflt : α) (m : List (Nat × α)) (a b : Nat) (v : α)

theorem lookup_eraseIndex_self : lookup dflt (eraseIndex m a) a = dflt := by
  induction m with
  | nil => rfl
  | cons p m ih =>
    obtain ⟨c, x⟩ := p
    by_cases h : c = a <;> simp_all [eraseIndex, lookup]

theorem lookup_eraseIndex_ne (h : b ≠ a) : lookup dflt (eraseIndex m a) b = lookup dflt m b := by
  induction m with
  | nil => rfl
  | cons p m ih =>
    obtain ⟨c, x⟩ := p
    by_cases hc : c = a
    · have : c ≠ b := fun e => h (e ▸ hc)
      simp_all [eraseIndex, lookup]
    · simp_all [eraseIndex, lookup]

theorem lookup_insertSorted_self (h : ∀ p ∈ m, p.1 ≠ a) :
    lookup dflt (insertSorted a v m) a = v := by
  induction m with
  | nil => simp [insertSorted, lookup]
  | cons p m ih =>
    obtain ⟨c, x⟩ := p
    have hc : c ≠ a := h (c, x) (by simp)
    by_cases hlt : a < c
    · simp [insertSorted, lookup, hlt]
    · simp [insertSorted, lookup, hlt, hc, ih fun p hp => h p (by simp [hp])]

theorem lookup_insertSorted_ne (h : b ≠ a) :
    lookup dflt (insertSorted a v m) b = lookup dflt m b := by
  induction m with
  | nil => simp [insertSorted, lookup, h.symm]
  | cons p m ih =>
    obtain ⟨c, x⟩ := p
    by_cases hlt : a < c
    · simp [insertSorted, lookup, hlt, h.symm]
    · simp [insertSorted, lookup, hlt, ih]

theorem mem_insertSorted (p : Nat × α) : p ∈ insertSorted a v m ↔ p = (a, v) ∨ p ∈ m := by
  induction m with
  | nil => simp [insertSorted]
  | cons q m ih =>
    obtain ⟨c, x⟩ := q
    by_cases hlt : a < c
    · simp [insertSorted, hlt]
    · simp only [insertSorted, hlt, if_false, List.mem_cons, ih]
      tauto

theorem mem_eraseIndex (p : Nat × α) : p ∈ eraseIndex m a ↔ p ∈ m ∧ p.1 ≠ a := by
  simp [eraseIndex]

theorem pairwise_insertSorted (hm : m.Pairwise fun p q => p.1 < q.1) (h : ∀ p ∈ m, p.1 ≠ a) :
    (insertSorted a v m).Pairwise fun p q => p.1 < q.1 := by
  induction m with
  | nil => simp [insertSorted]
  | cons q m ih =>
    obtain ⟨c, x⟩ := q
    have hrest := List.pairwise_cons.1 hm
    have hc : c ≠ a := h (c, x) (by simp)
    by_cases hlt : a < c
    · simp only [insertSorted, hlt, if_true]
      refine List.pairwise_cons.2 ⟨fun p hp => ?_, hm⟩
      rcases List.mem_cons.1 hp with rfl | hp
      · exact hlt
      · exact hlt.trans (hrest.1 p hp)
    · simp only [insertSorted, hlt, if_false]
      refine List.pairwise_cons.2 ⟨fun p hp => ?_, ih hrest.2 fun p hp => h p (by simp [hp])⟩
      rcases (mem_insertSorted m a v p).1 hp with rfl | hp
      · simp only; omega
      · exact hrest.1 p hp

variable [DecidableEq α]

theorem lookup_update_self : lookup dflt (update dflt m a v) a = v := by
  unfold update
  split
  · rename_i h; rw [lookup_eraseIndex_self, h]
  · exact lookup_insertSorted_self _ _ _ _ fun p hp => ((mem_eraseIndex m a p).1 hp).2

theorem lookup_update_ne (h : b ≠ a) : lookup dflt (update dflt m a v) b = lookup dflt m b := by
  unfold update
  split
  · exact lookup_eraseIndex_ne dflt m a b h
  · rw [lookup_insertSorted_ne dflt _ a b v h, lookup_eraseIndex_ne dflt m a b h]

/-- Every entry after a write is the one written or an old one. -/
theorem mem_update (p : Nat × α) (h : p ∈ update dflt m a v) :
    (p = (a, v) ∧ v ≠ dflt) ∨ (p ∈ m ∧ p.1 ≠ a) := by
  unfold update at h
  split at h
  · exact .inr ((mem_eraseIndex m a p).1 h)
  · rename_i hv
    rcases (mem_insertSorted _ a v p).1 h with rfl | h
    · exact .inl ⟨rfl, hv⟩
    · exact .inr ((mem_eraseIndex m a p).1 h)

theorem canonical_update (h : canonical dflt m) : canonical dflt (update dflt m a v) := by
  refine ⟨?_, fun p hp => ?_⟩
  · have he : (eraseIndex m a).Pairwise fun p q => p.1 < q.1 := h.1.filter _
    unfold update
    split
    · exact he
    · exact pairwise_insertSorted _ a v he fun p hp => ((mem_eraseIndex m a p).1 hp).2
  · rcases mem_update dflt m a v p hp with ⟨rfl, hv⟩ | ⟨hp, -⟩
    · exact hv
    · exact h.2 p hp

theorem range_update (n : Nat) (ha : a < n) (h : ∀ p ∈ m, p.1 < n) :
    ∀ p ∈ update dflt m a v, p.1 < n := by
  intro p hp
  rcases mem_update dflt m a v p hp with ⟨rfl, -⟩ | ⟨hp, -⟩
  · exact ha
  · exact h p hp

end Sparse

/-! ### The tape -/

@[simp] theorem Memory.read_write_self (m : Memory) (a : Nat) (v : Byte) :
    Memory.read (Memory.write m a v) a = v := lookup_update_self _ _ _ _

theorem Memory.read_write_ne (m : Memory) (a b : Nat) (v : Byte) (h : b ≠ a) :
    Memory.read (Memory.write m a v) b = Memory.read m b := lookup_update_ne _ _ _ _ _ h

theorem Memory.write_wf (m : Memory) (a : Nat) (v : Byte) (h : Memory.wf m) :
    Memory.wf (Memory.write m a v) := canonical_update _ _ _ _ h

theorem Memory.write_range (m : Memory) (a : Nat) (v : Byte) (n : Nat) (ha : a < n)
    (h : ∀ p ∈ m, p.1 < n) : ∀ p ∈ Memory.write m a v, p.1 < n := range_update _ _ _ _ n ha h

/-- Every cell of the empty list reads 0, as after reset. -/
@[simp] theorem Memory.read_nil (a : Nat) : Memory.read [] a = 0 := rfl

theorem Memory.nil_wf : Memory.wf [] := ⟨List.Pairwise.nil, fun _ h => nomatch h⟩

/-! ### The opcode ROM -/

@[simp] theorem Rom.read_write_self (m : Rom) (a : Nat) (w : Word) :
    Rom.read (Rom.write m a w) a = w := lookup_update_self _ _ _ _

theorem Rom.read_write_ne (m : Rom) (a b : Nat) (w : Word) (h : b ≠ a) :
    Rom.read (Rom.write m a w) b = Rom.read m b := lookup_update_ne _ _ _ _ _ h

theorem Rom.write_wf (m : Rom) (a : Nat) (w : Word) (h : Rom.wf m) : Rom.wf (Rom.write m a w) :=
  canonical_update _ _ _ _ h

theorem Rom.write_range (m : Rom) (a : Nat) (w : Word) (n : Nat) (ha : a < n)
    (h : ∀ p ∈ m, p.1 < n) : ∀ p ∈ Rom.write m a w, p.1 < n := range_update _ _ _ _ n ha h

/-- Every word of the empty list reads 0. -/
@[simp] theorem Rom.read_nil (a : Nat) : Rom.read [] a = 0 := rfl

theorem Rom.nil_wf : Rom.wf [] := ⟨List.Pairwise.nil, fun _ h => nomatch h⟩

end Sys2Proof.Machine
end

