-- ==== Sys2Proof/Laws/State.lean ====
section
/-! SUPPORT. One lemma for each field and each named update of the state, true by rfl, so that no later
proof unfolds a record update. -/

namespace Sys2Proof.Machine

section tapeWrite

variable (v : Byte) (s : State)

@[simp] theorem tapeWrite_cfg : (tapeWrite v s).cfg = s.cfg := rfl
@[simp] theorem tapeWrite_rst : (tapeWrite v s).rst = s.rst := rfl
@[simp] theorem tapeWrite_ip : (tapeWrite v s).ip = s.ip := rfl
@[simp] theorem tapeWrite_progLen : (tapeWrite v s).progLen = s.progLen := rfl
@[simp] theorem tapeWrite_rom : (tapeWrite v s).rom = s.rom := rfl
@[simp] theorem tapeWrite_tape : (tapeWrite v s).tape = Memory.write s.tape s.cursor.toNat v := rfl
@[simp] theorem tapeWrite_cursor : (tapeWrite v s).cursor = s.cursor := rfl
@[simp] theorem tapeWrite_status : (tapeWrite v s).status = s.status := rfl
@[simp] theorem tapeWrite_cause : (tapeWrite v s).cause = s.cause := rfl
@[simp] theorem tapeWrite_faultIp : (tapeWrite v s).faultIp = s.faultIp := rfl
@[simp] theorem tapeWrite_inValid : (tapeWrite v s).inValid = s.inValid := rfl
@[simp] theorem tapeWrite_inData : (tapeWrite v s).inData = s.inData := rfl
@[simp] theorem tapeWrite_inEof : (tapeWrite v s).inEof = s.inEof := rfl
@[simp] theorem tapeWrite_outData : (tapeWrite v s).outData = s.outData := rfl
@[simp] theorem tapeWrite_outStream : (tapeWrite v s).outStream = s.outStream := rfl
@[simp] theorem tapeWrite_inConsumed : (tapeWrite v s).inConsumed = s.inConsumed := rfl
@[simp] theorem tapeWrite_schedule : (tapeWrite v s).schedule = s.schedule := rfl
@[simp] theorem tapeWrite_freeCount : (tapeWrite v s).freeCount = s.freeCount := rfl

end tapeWrite

section setCursor

variable (t : Int) (s : State)

@[simp] theorem setCursor_cfg : (setCursor t s).cfg = s.cfg := rfl
@[simp] theorem setCursor_rst : (setCursor t s).rst = s.rst := rfl
@[simp] theorem setCursor_ip : (setCursor t s).ip = s.ip := rfl
@[simp] theorem setCursor_progLen : (setCursor t s).progLen = s.progLen := rfl
@[simp] theorem setCursor_rom : (setCursor t s).rom = s.rom := rfl
@[simp] theorem setCursor_tape : (setCursor t s).tape = s.tape := rfl
@[simp] theorem setCursor_cursor : (setCursor t s).cursor = cursorOf t := rfl
@[simp] theorem setCursor_status : (setCursor t s).status = s.status := rfl
@[simp] theorem setCursor_cause : (setCursor t s).cause = s.cause := rfl
@[simp] theorem setCursor_faultIp : (setCursor t s).faultIp = s.faultIp := rfl
@[simp] theorem setCursor_inValid : (setCursor t s).inValid = s.inValid := rfl
@[simp] theorem setCursor_inData : (setCursor t s).inData = s.inData := rfl
@[simp] theorem setCursor_inEof : (setCursor t s).inEof = s.inEof := rfl
@[simp] theorem setCursor_outData : (setCursor t s).outData = s.outData := rfl
@[simp] theorem setCursor_outStream : (setCursor t s).outStream = s.outStream := rfl
@[simp] theorem setCursor_inConsumed : (setCursor t s).inConsumed = s.inConsumed := rfl
@[simp] theorem setCursor_schedule : (setCursor t s).schedule = s.schedule := rfl
@[simp] theorem setCursor_freeCount : (setCursor t s).freeCount = s.freeCount := rfl

end setCursor

section advance

variable (s : State)

@[simp] theorem advance_cfg : (advance s).cfg = s.cfg := rfl
@[simp] theorem advance_rst : (advance s).rst = s.rst := rfl
@[simp] theorem advance_ip : (advance s).ip = s.ip + 1 := rfl
@[simp] theorem advance_progLen : (advance s).progLen = s.progLen := rfl
@[simp] theorem advance_rom : (advance s).rom = s.rom := rfl
@[simp] theorem advance_tape : (advance s).tape = s.tape := rfl
@[simp] theorem advance_cursor : (advance s).cursor = s.cursor := rfl
@[simp] theorem advance_status : (advance s).status = s.status := rfl
@[simp] theorem advance_cause : (advance s).cause = s.cause := rfl
@[simp] theorem advance_faultIp : (advance s).faultIp = s.faultIp := rfl
@[simp] theorem advance_inValid : (advance s).inValid = s.inValid := rfl
@[simp] theorem advance_inData : (advance s).inData = s.inData := rfl
@[simp] theorem advance_inEof : (advance s).inEof = s.inEof := rfl
@[simp] theorem advance_outData : (advance s).outData = s.outData := rfl
@[simp] theorem advance_outStream : (advance s).outStream = s.outStream := rfl
@[simp] theorem advance_inConsumed : (advance s).inConsumed = s.inConsumed := rfl
@[simp] theorem advance_schedule : (advance s).schedule = s.schedule := rfl
@[simp] theorem advance_freeCount : (advance s).freeCount = s.freeCount := rfl

end advance

section jumpTo

variable (d : Nat) (s : State)

@[simp] theorem jumpTo_cfg : (jumpTo d s).cfg = s.cfg := rfl
@[simp] theorem jumpTo_rst : (jumpTo d s).rst = s.rst := rfl
@[simp] theorem jumpTo_ip : (jumpTo d s).ip = BitVec.ofNat 28 d := rfl
@[simp] theorem jumpTo_progLen : (jumpTo d s).progLen = s.progLen := rfl
@[simp] theorem jumpTo_rom : (jumpTo d s).rom = s.rom := rfl
@[simp] theorem jumpTo_tape : (jumpTo d s).tape = s.tape := rfl
@[simp] theorem jumpTo_cursor : (jumpTo d s).cursor = s.cursor := rfl
@[simp] theorem jumpTo_status : (jumpTo d s).status = s.status := rfl
@[simp] theorem jumpTo_cause : (jumpTo d s).cause = s.cause := rfl
@[simp] theorem jumpTo_faultIp : (jumpTo d s).faultIp = s.faultIp := rfl
@[simp] theorem jumpTo_inValid : (jumpTo d s).inValid = s.inValid := rfl
@[simp] theorem jumpTo_inData : (jumpTo d s).inData = s.inData := rfl
@[simp] theorem jumpTo_inEof : (jumpTo d s).inEof = s.inEof := rfl
@[simp] theorem jumpTo_outData : (jumpTo d s).outData = s.outData := rfl
@[simp] theorem jumpTo_outStream : (jumpTo d s).outStream = s.outStream := rfl
@[simp] theorem jumpTo_inConsumed : (jumpTo d s).inConsumed = s.inConsumed := rfl
@[simp] theorem jumpTo_schedule : (jumpTo d s).schedule = s.schedule := rfl
@[simp] theorem jumpTo_freeCount : (jumpTo d s).freeCount = s.freeCount := rfl

end jumpTo

section consumeInput

variable (s : State)

@[simp] theorem consumeInput_cfg : (consumeInput s).cfg = s.cfg := rfl
@[simp] theorem consumeInput_rst : (consumeInput s).rst = s.rst := rfl
@[simp] theorem consumeInput_ip : (consumeInput s).ip = s.ip := rfl
@[simp] theorem consumeInput_progLen : (consumeInput s).progLen = s.progLen := rfl
@[simp] theorem consumeInput_rom : (consumeInput s).rom = s.rom := rfl
@[simp] theorem consumeInput_tape : (consumeInput s).tape = s.tape := rfl
@[simp] theorem consumeInput_cursor : (consumeInput s).cursor = s.cursor := rfl
@[simp] theorem consumeInput_status : (consumeInput s).status = s.status := rfl
@[simp] theorem consumeInput_cause : (consumeInput s).cause = s.cause := rfl
@[simp] theorem consumeInput_faultIp : (consumeInput s).faultIp = s.faultIp := rfl
@[simp] theorem consumeInput_inValid : (consumeInput s).inValid = false := rfl
@[simp] theorem consumeInput_inData : (consumeInput s).inData = Config.freeByte s.freeCount := rfl
@[simp] theorem consumeInput_inEof : (consumeInput s).inEof = s.inEof := rfl
@[simp] theorem consumeInput_outData : (consumeInput s).outData = s.outData := rfl
@[simp] theorem consumeInput_outStream : (consumeInput s).outStream = s.outStream := rfl
@[simp] theorem consumeInput_inConsumed : (consumeInput s).inConsumed = s.inConsumed ++ [s.inData] := rfl
@[simp] theorem consumeInput_schedule : (consumeInput s).schedule = s.schedule := rfl
@[simp] theorem consumeInput_freeCount : (consumeInput s).freeCount = s.freeCount + 1 := rfl

end consumeInput

section emit

variable (b : Byte) (s : State)

@[simp] theorem emit_cfg : (emit b s).cfg = s.cfg := rfl
@[simp] theorem emit_rst : (emit b s).rst = s.rst := rfl
@[simp] theorem emit_ip : (emit b s).ip = s.ip := rfl
@[simp] theorem emit_progLen : (emit b s).progLen = s.progLen := rfl
@[simp] theorem emit_rom : (emit b s).rom = s.rom := rfl
@[simp] theorem emit_tape : (emit b s).tape = s.tape := rfl
@[simp] theorem emit_cursor : (emit b s).cursor = s.cursor := rfl
@[simp] theorem emit_status : (emit b s).status = s.status := rfl
@[simp] theorem emit_cause : (emit b s).cause = s.cause := rfl
@[simp] theorem emit_faultIp : (emit b s).faultIp = s.faultIp := rfl
@[simp] theorem emit_inValid : (emit b s).inValid = s.inValid := rfl
@[simp] theorem emit_inData : (emit b s).inData = s.inData := rfl
@[simp] theorem emit_inEof : (emit b s).inEof = s.inEof := rfl
@[simp] theorem emit_outData : (emit b s).outData = b := rfl
@[simp] theorem emit_outStream : (emit b s).outStream = s.outStream ++ [b] := rfl
@[simp] theorem emit_inConsumed : (emit b s).inConsumed = s.inConsumed := rfl
@[simp] theorem emit_schedule : (emit b s).schedule = s.schedule := rfl
@[simp] theorem emit_freeCount : (emit b s).freeCount = s.freeCount := rfl

end emit

section finish

variable (s : State)

@[simp] theorem finish_cfg : (finish s).cfg = s.cfg := rfl
@[simp] theorem finish_rst : (finish s).rst = s.rst := rfl
@[simp] theorem finish_ip : (finish s).ip = s.ip := rfl
@[simp] theorem finish_progLen : (finish s).progLen = s.progLen := rfl
@[simp] theorem finish_rom : (finish s).rom = s.rom := rfl
@[simp] theorem finish_tape : (finish s).tape = s.tape := rfl
@[simp] theorem finish_cursor : (finish s).cursor = s.cursor := rfl
@[simp] theorem finish_status : (finish s).status = .done := rfl
@[simp] theorem finish_cause : (finish s).cause = s.cause := rfl
@[simp] theorem finish_faultIp : (finish s).faultIp = s.faultIp := rfl
@[simp] theorem finish_inValid : (finish s).inValid = s.inValid := rfl
@[simp] theorem finish_inData : (finish s).inData = s.inData := rfl
@[simp] theorem finish_inEof : (finish s).inEof = s.inEof := rfl
@[simp] theorem finish_outData : (finish s).outData = s.outData := rfl
@[simp] theorem finish_outStream : (finish s).outStream = s.outStream := rfl
@[simp] theorem finish_inConsumed : (finish s).inConsumed = s.inConsumed := rfl
@[simp] theorem finish_schedule : (finish s).schedule = s.schedule := rfl
@[simp] theorem finish_freeCount : (finish s).freeCount = s.freeCount := rfl

end finish

section raiseFault

variable (c : Cause) (s : State)

@[simp] theorem raiseFault_cfg : (raiseFault c s).cfg = s.cfg := rfl
@[simp] theorem raiseFault_rst : (raiseFault c s).rst = s.rst := rfl
@[simp] theorem raiseFault_ip : (raiseFault c s).ip = s.ip := rfl
@[simp] theorem raiseFault_progLen : (raiseFault c s).progLen = s.progLen := rfl
@[simp] theorem raiseFault_rom : (raiseFault c s).rom = s.rom := rfl
@[simp] theorem raiseFault_tape : (raiseFault c s).tape = s.tape := rfl
@[simp] theorem raiseFault_cursor : (raiseFault c s).cursor = s.cursor := rfl
@[simp] theorem raiseFault_status : (raiseFault c s).status = .fault := rfl
@[simp] theorem raiseFault_cause : (raiseFault c s).cause = c := rfl
@[simp] theorem raiseFault_faultIp : (raiseFault c s).faultIp = s.ip := rfl
@[simp] theorem raiseFault_inValid : (raiseFault c s).inValid = s.inValid := rfl
@[simp] theorem raiseFault_inData : (raiseFault c s).inData = s.inData := rfl
@[simp] theorem raiseFault_inEof : (raiseFault c s).inEof = s.inEof := rfl
@[simp] theorem raiseFault_outData : (raiseFault c s).outData = s.outData := rfl
@[simp] theorem raiseFault_outStream : (raiseFault c s).outStream = s.outStream := rfl
@[simp] theorem raiseFault_inConsumed : (raiseFault c s).inConsumed = s.inConsumed := rfl
@[simp] theorem raiseFault_schedule : (raiseFault c s).schedule = s.schedule := rfl
@[simp] theorem raiseFault_freeCount : (raiseFault c s).freeCount = s.freeCount := rfl

end raiseFault

section presentByte

variable (b : Byte) (s : State)

@[simp] theorem presentByte_cfg : (presentByte b s).cfg = s.cfg := rfl
@[simp] theorem presentByte_rst : (presentByte b s).rst = s.rst := rfl
@[simp] theorem presentByte_ip : (presentByte b s).ip = s.ip := rfl
@[simp] theorem presentByte_progLen : (presentByte b s).progLen = s.progLen := rfl
@[simp] theorem presentByte_rom : (presentByte b s).rom = s.rom := rfl
@[simp] theorem presentByte_tape : (presentByte b s).tape = s.tape := rfl
@[simp] theorem presentByte_cursor : (presentByte b s).cursor = s.cursor := rfl
@[simp] theorem presentByte_status : (presentByte b s).status = s.status := rfl
@[simp] theorem presentByte_cause : (presentByte b s).cause = s.cause := rfl
@[simp] theorem presentByte_faultIp : (presentByte b s).faultIp = s.faultIp := rfl
@[simp] theorem presentByte_inValid : (presentByte b s).inValid = true := rfl
@[simp] theorem presentByte_inData : (presentByte b s).inData = b := rfl
@[simp] theorem presentByte_inEof : (presentByte b s).inEof = s.inEof := rfl
@[simp] theorem presentByte_outData : (presentByte b s).outData = s.outData := rfl
@[simp] theorem presentByte_outStream : (presentByte b s).outStream = s.outStream := rfl
@[simp] theorem presentByte_inConsumed : (presentByte b s).inConsumed = s.inConsumed := rfl
@[simp] theorem presentByte_schedule : (presentByte b s).schedule = s.schedule := rfl
@[simp] theorem presentByte_freeCount : (presentByte b s).freeCount = s.freeCount := rfl

end presentByte

section signalEof

variable (s : State)

@[simp] theorem signalEof_cfg : (signalEof s).cfg = s.cfg := rfl
@[simp] theorem signalEof_rst : (signalEof s).rst = s.rst := rfl
@[simp] theorem signalEof_ip : (signalEof s).ip = s.ip := rfl
@[simp] theorem signalEof_progLen : (signalEof s).progLen = s.progLen := rfl
@[simp] theorem signalEof_rom : (signalEof s).rom = s.rom := rfl
@[simp] theorem signalEof_tape : (signalEof s).tape = s.tape := rfl
@[simp] theorem signalEof_cursor : (signalEof s).cursor = s.cursor := rfl
@[simp] theorem signalEof_status : (signalEof s).status = s.status := rfl
@[simp] theorem signalEof_cause : (signalEof s).cause = s.cause := rfl
@[simp] theorem signalEof_faultIp : (signalEof s).faultIp = s.faultIp := rfl
@[simp] theorem signalEof_inValid : (signalEof s).inValid = s.inValid := rfl
@[simp] theorem signalEof_inData : (signalEof s).inData = s.inData := rfl
@[simp] theorem signalEof_inEof : (signalEof s).inEof = true := rfl
@[simp] theorem signalEof_outData : (signalEof s).outData = s.outData := rfl
@[simp] theorem signalEof_outStream : (signalEof s).outStream = s.outStream := rfl
@[simp] theorem signalEof_inConsumed : (signalEof s).inConsumed = s.inConsumed := rfl
@[simp] theorem signalEof_schedule : (signalEof s).schedule = s.schedule := rfl
@[simp] theorem signalEof_freeCount : (signalEof s).freeCount = s.freeCount := rfl

end signalEof

section resetAll

variable (s : State)

@[simp] theorem resetAll_cfg : (resetAll s).cfg = s.cfg := rfl
@[simp] theorem resetAll_rst : (resetAll s).rst = true := rfl
@[simp] theorem resetAll_ip : (resetAll s).ip = 0 := rfl
@[simp] theorem resetAll_progLen : (resetAll s).progLen = s.progLen := rfl
@[simp] theorem resetAll_rom : (resetAll s).rom = s.rom := rfl
@[simp] theorem resetAll_tape : (resetAll s).tape = [] := rfl
@[simp] theorem resetAll_cursor : (resetAll s).cursor = 0 := rfl
@[simp] theorem resetAll_status : (resetAll s).status = .run := rfl
@[simp] theorem resetAll_cause : (resetAll s).cause = .none := rfl
@[simp] theorem resetAll_faultIp : (resetAll s).faultIp = 0 := rfl
@[simp] theorem resetAll_inValid : (resetAll s).inValid = false := rfl
@[simp] theorem resetAll_inData : (resetAll s).inData = Config.freeByte s.freeCount := rfl
@[simp] theorem resetAll_inEof : (resetAll s).inEof = false := rfl
@[simp] theorem resetAll_outData : (resetAll s).outData = Config.freeByte (s.freeCount + 1) := rfl
@[simp] theorem resetAll_outStream : (resetAll s).outStream = [] := rfl
@[simp] theorem resetAll_inConsumed : (resetAll s).inConsumed = [] := rfl
@[simp] theorem resetAll_schedule : (resetAll s).schedule = s.schedule := rfl
@[simp] theorem resetAll_freeCount : (resetAll s).freeCount = s.freeCount + 2 := rfl

end resetAll

section releaseReset

variable (s : State)

@[simp] theorem releaseReset_cfg : (releaseReset s).cfg = s.cfg := rfl
@[simp] theorem releaseReset_rst : (releaseReset s).rst = false := rfl
@[simp] theorem releaseReset_ip : (releaseReset s).ip = s.ip := rfl
@[simp] theorem releaseReset_progLen : (releaseReset s).progLen = s.progLen := rfl
@[simp] theorem releaseReset_rom : (releaseReset s).rom = s.rom := rfl
@[simp] theorem releaseReset_tape : (releaseReset s).tape = s.tape := rfl
@[simp] theorem releaseReset_cursor : (releaseReset s).cursor = s.cursor := rfl
@[simp] theorem releaseReset_status : (releaseReset s).status = s.status := rfl
@[simp] theorem releaseReset_cause : (releaseReset s).cause = s.cause := rfl
@[simp] theorem releaseReset_faultIp : (releaseReset s).faultIp = s.faultIp := rfl
@[simp] theorem releaseReset_inValid : (releaseReset s).inValid = s.inValid := rfl
@[simp] theorem releaseReset_inData : (releaseReset s).inData = s.inData := rfl
@[simp] theorem releaseReset_inEof : (releaseReset s).inEof = s.inEof := rfl
@[simp] theorem releaseReset_outData : (releaseReset s).outData = s.outData := rfl
@[simp] theorem releaseReset_outStream : (releaseReset s).outStream = s.outStream := rfl
@[simp] theorem releaseReset_inConsumed : (releaseReset s).inConsumed = s.inConsumed := rfl
@[simp] theorem releaseReset_schedule : (releaseReset s).schedule = s.schedule := rfl
@[simp] theorem releaseReset_freeCount : (releaseReset s).freeCount = s.freeCount := rfl

end releaseReset

section takeFree

variable (s : State)

@[simp] theorem takeFree_cfg : (takeFree s).cfg = s.cfg := rfl
@[simp] theorem takeFree_rst : (takeFree s).rst = s.rst := rfl
@[simp] theorem takeFree_ip : (takeFree s).ip = s.ip := rfl
@[simp] theorem takeFree_progLen : (takeFree s).progLen = s.progLen := rfl
@[simp] theorem takeFree_rom : (takeFree s).rom = s.rom := rfl
@[simp] theorem takeFree_tape : (takeFree s).tape = s.tape := rfl
@[simp] theorem takeFree_cursor : (takeFree s).cursor = s.cursor := rfl
@[simp] theorem takeFree_status : (takeFree s).status = s.status := rfl
@[simp] theorem takeFree_cause : (takeFree s).cause = s.cause := rfl
@[simp] theorem takeFree_faultIp : (takeFree s).faultIp = s.faultIp := rfl
@[simp] theorem takeFree_inValid : (takeFree s).inValid = s.inValid := rfl
@[simp] theorem takeFree_inData : (takeFree s).inData = s.inData := rfl
@[simp] theorem takeFree_inEof : (takeFree s).inEof = s.inEof := rfl
@[simp] theorem takeFree_outData : (takeFree s).outData = s.outData := rfl
@[simp] theorem takeFree_outStream : (takeFree s).outStream = s.outStream := rfl
@[simp] theorem takeFree_inConsumed : (takeFree s).inConsumed = s.inConsumed := rfl
@[simp] theorem takeFree_schedule : (takeFree s).schedule = s.schedule := rfl
@[simp] theorem takeFree_freeCount : (takeFree s).freeCount = s.freeCount + 1 := rfl

end takeFree

section setSchedule

variable (ts : List Turn) (s : State)

@[simp] theorem setSchedule_cfg : (setSchedule ts s).cfg = s.cfg := rfl
@[simp] theorem setSchedule_rst : (setSchedule ts s).rst = s.rst := rfl
@[simp] theorem setSchedule_ip : (setSchedule ts s).ip = s.ip := rfl
@[simp] theorem setSchedule_progLen : (setSchedule ts s).progLen = s.progLen := rfl
@[simp] theorem setSchedule_rom : (setSchedule ts s).rom = s.rom := rfl
@[simp] theorem setSchedule_tape : (setSchedule ts s).tape = s.tape := rfl
@[simp] theorem setSchedule_cursor : (setSchedule ts s).cursor = s.cursor := rfl
@[simp] theorem setSchedule_status : (setSchedule ts s).status = s.status := rfl
@[simp] theorem setSchedule_cause : (setSchedule ts s).cause = s.cause := rfl
@[simp] theorem setSchedule_faultIp : (setSchedule ts s).faultIp = s.faultIp := rfl
@[simp] theorem setSchedule_inValid : (setSchedule ts s).inValid = s.inValid := rfl
@[simp] theorem setSchedule_inData : (setSchedule ts s).inData = s.inData := rfl
@[simp] theorem setSchedule_inEof : (setSchedule ts s).inEof = s.inEof := rfl
@[simp] theorem setSchedule_outData : (setSchedule ts s).outData = s.outData := rfl
@[simp] theorem setSchedule_outStream : (setSchedule ts s).outStream = s.outStream := rfl
@[simp] theorem setSchedule_inConsumed : (setSchedule ts s).inConsumed = s.inConsumed := rfl
@[simp] theorem setSchedule_schedule : (setSchedule ts s).schedule = ts := rfl
@[simp] theorem setSchedule_freeCount : (setSchedule ts s).freeCount = s.freeCount := rfl

end setSchedule

section romPort

variable (addr : RomIndex) (data : Word) (s : State)

@[simp] theorem romPort_cfg : (romPort addr data s).cfg = s.cfg := by
  unfold romPort; split <;> rfl
@[simp] theorem romPort_rst : (romPort addr data s).rst = s.rst := by
  unfold romPort; split <;> rfl
@[simp] theorem romPort_ip : (romPort addr data s).ip = s.ip := by
  unfold romPort; split <;> rfl
@[simp] theorem romPort_progLen : (romPort addr data s).progLen = s.progLen := by
  unfold romPort; split <;> rfl
@[simp] theorem romPort_tape : (romPort addr data s).tape = s.tape := by
  unfold romPort; split <;> rfl
@[simp] theorem romPort_cursor : (romPort addr data s).cursor = s.cursor := by
  unfold romPort; split <;> rfl
@[simp] theorem romPort_status : (romPort addr data s).status = s.status := by
  unfold romPort; split <;> rfl
@[simp] theorem romPort_cause : (romPort addr data s).cause = s.cause := by
  unfold romPort; split <;> rfl
@[simp] theorem romPort_faultIp : (romPort addr data s).faultIp = s.faultIp := by
  unfold romPort; split <;> rfl
@[simp] theorem romPort_inValid : (romPort addr data s).inValid = s.inValid := by
  unfold romPort; split <;> rfl
@[simp] theorem romPort_inData : (romPort addr data s).inData = s.inData := by
  unfold romPort; split <;> rfl
@[simp] theorem romPort_inEof : (romPort addr data s).inEof = s.inEof := by
  unfold romPort; split <;> rfl
@[simp] theorem romPort_outData : (romPort addr data s).outData = s.outData := by
  unfold romPort; split <;> rfl
@[simp] theorem romPort_outStream : (romPort addr data s).outStream = s.outStream := by
  unfold romPort; split <;> rfl
@[simp] theorem romPort_inConsumed : (romPort addr data s).inConsumed = s.inConsumed := by
  unfold romPort; split <;> rfl
@[simp] theorem romPort_schedule : (romPort addr data s).schedule = s.schedule := by
  unfold romPort; split <;> rfl
@[simp] theorem romPort_freeCount : (romPort addr data s).freeCount = s.freeCount := by
  unfold romPort; split <;> rfl

end romPort

section progLenPort

variable (n : RomIndex) (s : State)

@[simp] theorem progLenPort_cfg : (progLenPort n s).cfg = s.cfg := by
  unfold progLenPort; split <;> rfl
@[simp] theorem progLenPort_rst : (progLenPort n s).rst = s.rst := by
  unfold progLenPort; split <;> rfl
@[simp] theorem progLenPort_ip : (progLenPort n s).ip = s.ip := by
  unfold progLenPort; split <;> rfl
@[simp] theorem progLenPort_rom : (progLenPort n s).rom = s.rom := by
  unfold progLenPort; split <;> rfl
@[simp] theorem progLenPort_tape : (progLenPort n s).tape = s.tape := by
  unfold progLenPort; split <;> rfl
@[simp] theorem progLenPort_cursor : (progLenPort n s).cursor = s.cursor := by
  unfold progLenPort; split <;> rfl
@[simp] theorem progLenPort_status : (progLenPort n s).status = s.status := by
  unfold progLenPort; split <;> rfl
@[simp] theorem progLenPort_cause : (progLenPort n s).cause = s.cause := by
  unfold progLenPort; split <;> rfl
@[simp] theorem progLenPort_faultIp : (progLenPort n s).faultIp = s.faultIp := by
  unfold progLenPort; split <;> rfl
@[simp] theorem progLenPort_inValid : (progLenPort n s).inValid = s.inValid := by
  unfold progLenPort; split <;> rfl
@[simp] theorem progLenPort_inData : (progLenPort n s).inData = s.inData := by
  unfold progLenPort; split <;> rfl
@[simp] theorem progLenPort_inEof : (progLenPort n s).inEof = s.inEof := by
  unfold progLenPort; split <;> rfl
@[simp] theorem progLenPort_outData : (progLenPort n s).outData = s.outData := by
  unfold progLenPort; split <;> rfl
@[simp] theorem progLenPort_outStream : (progLenPort n s).outStream = s.outStream := by
  unfold progLenPort; split <;> rfl
@[simp] theorem progLenPort_inConsumed : (progLenPort n s).inConsumed = s.inConsumed := by
  unfold progLenPort; split <;> rfl
@[simp] theorem progLenPort_schedule : (progLenPort n s).schedule = s.schedule := by
  unfold progLenPort; split <;> rfl
@[simp] theorem progLenPort_freeCount : (progLenPort n s).freeCount = s.freeCount := by
  unfold progLenPort; split <;> rfl

end progLenPort

end Sys2Proof.Machine
end

