-- ==== Sys2Proof/Laws/Exec.lean ====
section
/-! SUPPORT. What each meaning can answer, and one inversion lemma for all of them: whatever `exec`
answers is one of eight effects. -/

namespace Sys2Proof.Machine

section Alu

variable (v : Byte) (n : Nat)

@[simp] theorem add8_toNat : (add8 v n).toNat = (v.toNat + n) % 256 := by simp [add8]

theorem sub8_toInt : ((sub8 v n).toNat : Int) = ((v.toNat : Int) - n) % 256 := by
  simp only [sub8, BitVec.toNat_ofInt]
  omega

/-- The subtraction is the word subtraction. -/
theorem sub8_eq_sub : sub8 v n = v - BitVec.ofNat 8 n := by
  apply BitVec.eq_of_toNat_eq
  have := sub8_toInt v n
  have := v.isLt
  simp only [BitVec.toNat_sub, BitVec.toNat_ofNat]
  omega

/-- The addition is the word addition. -/
theorem add8_eq_add : add8 v n = v + BitVec.ofNat 8 n := by
  apply BitVec.eq_of_toNat_eq
  simp only [add8_toNat, BitVec.toNat_add, BitVec.toNat_ofNat]
  omega

theorem cursorOf_toNat (t : Int) (h0 : 0 ≤ t) (h : t < 2 ^ 28) : ((cursorOf t).toNat : Int) = t := by
  simp only [cursorOf, BitVec.toNat_ofNat]
  omega

end Alu

section Cell

variable {s t : State} {k : Byte → Host.Outcome State Fault Refusal}

theorem cursorInTape_iff : cursorInTape s = true ↔ s.cursor.toNat < s.cfg.tapeLen := by
  simp [cursorInTape]

/-- An access to the current cell goes on exactly where the cursor is an index of the tape. -/
theorem onCell_of_inTape (h : s.cursor.toNat < s.cfg.tapeLen) : onCell s k = k (tapeRead s) := by
  simp [onCell, cursorInTape, h]

theorem onCell_next : onCell s k = .next t ↔
    s.cursor.toNat < s.cfg.tapeLen ∧ k (tapeRead s) = .next t := by
  unfold onCell; rw [← cursorInTape_iff]; split <;> simp_all

end Cell

section Meanings

variable {s t : State} {n : Nat}

theorem execInc_next : execInc n s = .next t ↔ s.cursor.toNat < s.cfg.tapeLen ∧
    advance (tapeWrite (add8 (tapeRead s) n) s) = t := by
  simp [execInc, onCell_next]

theorem execDec_next : execDec n s = .next t ↔ s.cursor.toNat < s.cfg.tapeLen ∧
    advance (tapeWrite (sub8 (tapeRead s) n) s) = t := by
  simp [execDec, onCell_next]

theorem execZero_next : execZero s = .next t ↔ s.cursor.toNat < s.cfg.tapeLen ∧
    advance (tapeWrite 0 s) = t := by
  simp [execZero, onCell_next]

theorem leftInBounds_iff : leftInBounds s n = true ↔ n ≤ s.cursor.toNat := by
  simp [leftInBounds, leftTarget]

theorem rightInBounds_iff : rightInBounds s n = true ↔ s.cursor.toNat + n < s.cfg.tapeLen := by
  rw [rightInBounds, decide_eq_true_iff, rightTarget]
  omega

theorem execLeft_of_le (h : n ≤ s.cursor.toNat) :
    execLeft n s = .next (advance (setCursor (leftTarget s.cursor n) s)) := by
  simp [execLeft, moveOr, leftInBounds_iff.2 h]

theorem execLeft_of_gt (h : s.cursor.toNat < n) :
    execLeft n s = .next (raiseFault .cursorLeftOob s) := by
  have : leftInBounds s n = false := by
    rw [← Bool.not_eq_true, leftInBounds_iff]; omega
  simp [execLeft, moveOr, this]

theorem execRight_of_lt (h : s.cursor.toNat + n < s.cfg.tapeLen) :
    execRight n s = .next (advance (setCursor (rightTarget s.cursor n) s)) := by
  simp [execRight, moveOr, rightInBounds_iff.2 h]

theorem execRight_of_ge (h : s.cfg.tapeLen ≤ s.cursor.toNat + n) :
    execRight n s = .next (raiseFault .cursorRightOob s) := by
  have : rightInBounds s n = false := by
    rw [← Bool.not_eq_true, rightInBounds_iff]; omega
  simp [execRight, moveOr, this]

theorem execRead_next : execRead s = .next t ↔
    (s.inValid = true ∧ s.cursor.toNat < s.cfg.tapeLen ∧
      advance (consumeInput (tapeWrite s.inData s)) = t) ∨
    (s.inValid = false ∧ s.inEof = true ∧ raiseFault .inputExhausted s = t) ∨
    (s.inValid = false ∧ s.inEof = false ∧ s = t) := by
  unfold execRead
  split
  · simp_all [onCell_next]
  · split <;> simp_all

theorem execWrite_next : execWrite s = .next t ↔ s.cursor.toNat < s.cfg.tapeLen ∧
    advance (emit (tapeRead s) s) = t := by
  simp [execWrite, onCell_next]

theorem execJmpf_next : execJmpf n s = .next t ↔ s.cursor.toNat < s.cfg.tapeLen ∧
    jumpMux .forward (tapeRead s) n s = t := by
  simp [execJmpf, onCell_next]

theorem execJmpb_next : execJmpb n s = .next t ↔ s.cursor.toNat < s.cfg.tapeLen ∧
    jumpMux .backward (tapeRead s) n s = t := by
  simp [execJmpb, onCell_next]

theorem zeroDetect_iff (v : Byte) : zeroDetect v = true ↔ v = 0 := by simp [zeroDetect]

theorem jumpMux_cases (dir : Direction) (v : Byte) :
    jumpMux dir v n s = jumpTo n s ∨ jumpMux dir v n s = advance s := by
  unfold jumpMux; split <;> simp

end Meanings

/-- The effects a core step can have on a running machine. -/
inductive CoreEffect (s : State) : State → Prop
  | store (v : Byte) (h : s.cursor.toNat < s.cfg.tapeLen) : CoreEffect s (advance (tapeWrite v s))
  | moveLeft (n : Nat) (h : n ≤ s.cursor.toNat) :
    CoreEffect s (advance (setCursor (leftTarget s.cursor n) s))
  | moveRight (n : Nat) (h : s.cursor.toNat + n < s.cfg.tapeLen) :
    CoreEffect s (advance (setCursor (rightTarget s.cursor n) s))
  | consume (hv : s.inValid = true) (h : s.cursor.toNat < s.cfg.tapeLen) :
    CoreEffect s (advance (consumeInput (tapeWrite s.inData s)))
  | emitCell (h : s.cursor.toNat < s.cfg.tapeLen) : CoreEffect s (advance (emit (tapeRead s) s))
  | jump (d : Nat) (h : s.cursor.toNat < s.cfg.tapeLen) : CoreEffect s (jumpTo d s)
  | fallThrough (h : s.cursor.toNat < s.cfg.tapeLen) : CoreEffect s (advance s)
  | raised (c : Cause) (h : c ≠ .none) : CoreEffect s (raiseFault c s)
  | hold (hv : s.inValid = false) (he : s.inEof = false) : CoreEffect s s

/-- Whatever an instruction answers is one of the effects. -/
theorem exec_effect {i : Instr} {s t : State} (h : exec i s = .next t) : CoreEffect s t := by
  cases i with
  | inc n => obtain ⟨hc, rfl⟩ := execInc_next.1 h; exact .store _ hc
  | dec n => obtain ⟨hc, rfl⟩ := execDec_next.1 h; exact .store _ hc
  | zero => obtain ⟨hc, rfl⟩ := execZero_next.1 h; exact .store _ hc
  | left n =>
    rcases Nat.lt_or_ge s.cursor.toNat n with hn | hn
    · obtain rfl := Host.Outcome.next.inj ((execLeft_of_gt hn).symm.trans h)
      exact .raised _ (by decide)
    · obtain rfl := Host.Outcome.next.inj ((execLeft_of_le hn).symm.trans h)
      exact .moveLeft n hn
  | right n =>
    rcases Nat.lt_or_ge (s.cursor.toNat + n) s.cfg.tapeLen with hn | hn
    · obtain rfl := Host.Outcome.next.inj ((execRight_of_lt hn).symm.trans h)
      exact .moveRight n hn
    · obtain rfl := Host.Outcome.next.inj ((execRight_of_ge hn).symm.trans h)
      exact .raised _ (by decide)
  | read =>
    rcases execRead_next.1 h with ⟨hv, hc, rfl⟩ | ⟨-, -, rfl⟩ | ⟨hv, he, rfl⟩
    · exact .consume hv hc
    · exact .raised _ (by decide)
    · exact .hold hv he
  | write => obtain ⟨hc, rfl⟩ := execWrite_next.1 h; exact .emitCell hc
  | jmpf d =>
    obtain ⟨hc, rfl⟩ := execJmpf_next.1 h
    rcases jumpMux_cases (s := s) (n := d) .forward (tapeRead s) with e | e <;> rw [e]
    · exact .jump d hc
    · exact .fallThrough hc
  | jmpb d =>
    obtain ⟨hc, rfl⟩ := execJmpb_next.1 h
    rcases jumpMux_cases (s := s) (n := d) .backward (tapeRead s) with e | e <;> rw [e]
    · exact .jump d hc
    · exact .fallThrough hc

/-- An instruction is never refused. -/
theorem exec_not_refused (i : Instr) (s : State) (r : Refusal) : exec i s ≠ .refused r := by
  cases i <;> simp only [exec, execInc, execDec, execZero, execLeft, execRight, execRead, execWrite,
    execJmpf, execJmpb, onCell, ne_eq] <;> repeat' split
  all_goals simp

end Sys2Proof.Machine
end

