-- ==== Sys2Proof/Laws/PerInstr.lean ====
section
/-! SUPPORT. Statements about every instruction as syntax, one lemma for each constructor. -/

namespace Sys2Proof.Laws

/-- A well-formed instruction fits a ROM word: its opcode is one of 0x1 to 0x9, and its operand fits the
operand field, in 8 bits where the format is D8 (spec 30_encoding.md R90, R91, R93). -/
def FieldsFit.Statement (i : Instr) : Prop :=
  i.wellFormed = true → 1 ≤ i.opcode ∧ i.opcode ≤ 9 ∧ i.operand < 2 ^ 28 ∧
    (i.opcode ≤ 2 → i.operand < 2 ^ 8)

section

variable (n : Nat)

theorem FieldsFit.inc : FieldsFit.Statement (.inc n) := fun h => by
  simp only [Instr.wellFormed, decide_eq_true_eq] at h
  simp only [Instr.opcode, Instr.operand]; omega

theorem FieldsFit.dec : FieldsFit.Statement (.dec n) := fun h => by
  simp only [Instr.wellFormed, decide_eq_true_eq] at h
  simp only [Instr.opcode, Instr.operand]; omega

theorem FieldsFit.left : FieldsFit.Statement (.left n) := fun h => by
  simp only [Instr.wellFormed, decide_eq_true_eq] at h
  simp only [Instr.opcode, Instr.operand]; omega

theorem FieldsFit.right : FieldsFit.Statement (.right n) := fun h => by
  simp only [Instr.wellFormed, decide_eq_true_eq] at h
  simp only [Instr.opcode, Instr.operand]; omega

theorem FieldsFit.zero : FieldsFit.Statement .zero := fun _ => by decide

theorem FieldsFit.read : FieldsFit.Statement .read := fun _ => by decide

theorem FieldsFit.write : FieldsFit.Statement .write := fun _ => by decide

theorem FieldsFit.jmpf : FieldsFit.Statement (.jmpf n) := fun h => by
  simp only [Instr.wellFormed, decide_eq_true_eq] at h
  simp only [Instr.opcode, Instr.operand]; omega

theorem FieldsFit.jmpb : FieldsFit.Statement (.jmpb n) := fun h => by
  simp only [Instr.wellFormed, decide_eq_true_eq] at h
  simp only [Instr.opcode, Instr.operand]; omega

end

end Sys2Proof.Laws
end

