-- ==== Sys2Proof/Laws/Step.lean ====
section
/-! SUPPORT. What a core turn, a host turn and a step can answer. -/

namespace Sys2Proof.Machine

section Core

variable {s t : State}

/-- Everything a core turn can do: nothing, terminate, fault on an illegal word, or run the decoded
instruction. -/
theorem coreStep_next (h : coreStep s = .next t) :
    ((s.rst = true ∨ s.status ≠ .run) ∧ t = s) ∨
    (s.rst = false ∧ s.status = .run ∧
      ((s.progLen.toNat ≤ s.ip.toNat ∧ t = finish s) ∨
       (s.ip.toNat < s.progLen.toNat ∧ s.ip.toNat < s.cfg.romDepth ∧
         ((∃ why, decode (fetchWord s) = .illegal why ∧ t = raiseFault .illegalInstruction s) ∨
          (∃ i, decode (fetchWord s) = .instr i ∧ exec i s = .next t))))) := by
  unfold coreStep at h
  split at h
  · exact .inl ⟨.inl ‹_›, (Host.Outcome.next.inj h).symm⟩
  · rename_i hr
    have hr : s.rst = false := by simpa using hr
    split at h <;> rename_i hs
    · refine .inr ⟨hr, hs, ?_⟩
      unfold runningStep at h
      split at h <;> rename_i hp
      · exact .inl ⟨hp, (Host.Outcome.next.inj h).symm⟩
      · refine .inr ⟨by omega, ?_⟩
        unfold fetchAndExec at h
        split at h <;> rename_i hd
        · refine ⟨hd, ?_⟩
          split at h <;> rename_i hw
          · exact .inr ⟨_, hw, h⟩
          · exact .inl ⟨_, hw, (Host.Outcome.next.inj h).symm⟩
        · cases h
    · exact .inl ⟨.inr (by simp [hs]), (Host.Outcome.next.inj h).symm⟩
    · exact .inl ⟨.inr (by simp [hs]), (Host.Outcome.next.inj h).symm⟩

/-- A running core past the end of the program terminates. -/
theorem coreStep_finish (hr : s.rst = false) (hs : s.status = .run)
    (hp : s.progLen.toNat ≤ s.ip.toNat) : coreStep s = .next (finish s) := by
  simp [coreStep, runningStep, hr, hs, hp]

/-- A running core runs the instruction that the word at `IP` decodes to. -/
theorem coreStep_exec {i : Instr} (hr : s.rst = false) (hs : s.status = .run)
    (hp : s.ip.toNat < s.progLen.toNat) (hd : s.ip.toNat < s.cfg.romDepth)
    (hw : decode (fetchWord s) = .instr i) : coreStep s = exec i s := by
  simp [coreStep, runningStep, fetchAndExec, hr, hs, hp, hd, hw]

/-- A running core faults on an illegal word. -/
theorem coreStep_illegal {why : IllegalWord} (hr : s.rst = false) (hs : s.status = .run)
    (hp : s.ip.toNat < s.progLen.toNat) (hd : s.ip.toNat < s.cfg.romDepth)
    (hw : decode (fetchWord s) = .illegal why) :
    coreStep s = .next (raiseFault .illegalInstruction s) := by
  simp [coreStep, runningStep, fetchAndExec, hr, hs, hp, hd, hw]

/-- Without a core step, a core turn changes nothing. -/
theorem coreStep_idle (h : s.rst = true ∨ s.status ≠ .run) : coreStep s = .next s := by
  rcases h with h | h
  · simp [coreStep, h]
  · cases hs : s.status <;> simp_all [coreStep]

end Core

section Turns

variable {s t : State}

theorem hostStep_next {m : HostMove} :
    hostStep m s = .next t ↔ moveEnabled m s = true ∧ moveEffect m s = t := by
  unfold hostStep; split <;> simp_all

theorem step_of_core (h : s.nextIsCore = true) : step s = coreStep s.afterTurn := by
  unfold State.nextIsCore at h
  unfold step State.afterTurn
  split <;> simp_all [setSchedule]
  rename_i e
  rw [← e]

theorem step_of_host {m : HostMove} {rest : List Turn} (h : s.schedule = .host m :: rest) :
    step s = hostStep m s.afterTurn := by
  simp [step, State.afterTurn, h]

/-- A step is the core's turn or a host move that is enabled. -/
theorem step_next (h : step s = .next t) :
    (s.nextIsCore = true ∧ coreStep s.afterTurn = .next t) ∨
    (∃ m rest, s.schedule = .host m :: rest ∧ moveEnabled m s.afterTurn = true ∧
      moveEffect m s.afterTurn = t) := by
  cases hs : s.schedule with
  | nil =>
    have hc : s.nextIsCore = true := by simp [State.nextIsCore, hs]
    exact .inl ⟨hc, step_of_core hc ▸ h⟩
  | cons a rest =>
    cases a with
    | core =>
      have hc : s.nextIsCore = true := by simp [State.nextIsCore, hs]
      exact .inl ⟨hc, step_of_core hc ▸ h⟩
    | host m => exact .inr ⟨m, rest, rfl, hostStep_next.1 (step_of_host hs ▸ h)⟩

/-- A run of no step ends where it begins. -/
theorem run_zero_next : Host.Core.run core 0 s = .next t ↔ s = t :=
  ⟨fun h => Host.Outcome.next.inj h, fun h => congrArg _ h⟩

/-- A run of one step more begins with that step. -/
theorem run_succ (k : Nat) (h : step s = .next t) :
    Host.Core.run core (k + 1) s = Host.Core.run core k t := by
  simp [Host.Core.run, core, h]

/-- A run of `a + b` steps is one of `b` steps from where the first `a` lead. -/
theorem run_add (a b : Nat) (h : Host.Core.run core a s = .next t) :
    Host.Core.run core (a + b) s = Host.Core.run core b t := by
  induction a generalizing s with
  | zero => rw [Nat.zero_add]; exact congrArg _ (Host.Outcome.next.inj h)
  | succ a ih =>
    rw [Nat.add_right_comm]
    simp only [Host.Core.run] at h ⊢
    cases hs : core.step s with
    | next u => rw [hs] at h; exact ih h
    | fault r => rw [hs] at h; cases h
    | refused r => rw [hs] at h; cases h

end Turns

/-! ### Runs without RESET, and what they count -/

section Counts

variable {s t : State}

/-- Every turn is taken off the schedule. -/
theorem step_schedule (h : step s = .next t) : t.schedule = s.schedule.tail := by
  rcases step_next h with ⟨-, h⟩ | ⟨m, rest, hs, -, rfl⟩
  · rcases coreStep_next h with ⟨-, rfl⟩ | ⟨-, -, ⟨-, rfl⟩ | ⟨-, -, ⟨-, -, rfl⟩ | ⟨i, -, he⟩⟩⟩
    · rfl
    · rfl
    · rfl
    · cases exec_effect he <;> rfl
  · cases m <;> simp only [moveEffect, romPort, progLenPort] <;> (try split) <;> rfl

/-- A stretch without RESET begins with a turn that is none, and goes on without one. -/
theorem noResetWithin_succ {k : Nat} (hn : s.noResetWithin (k + 1)) (h : step s = .next t) :
    s.nextIsReset = false ∧ t.noResetWithin k := by
  unfold State.noResetWithin at *
  rw [step_schedule h]
  unfold State.nextIsReset
  cases hs : s.schedule with
  | nil => simp
  | cons a rest =>
    rw [hs, List.take_succ_cons] at hn
    refine ⟨?_, fun turn ht => hn turn (.tail _ ht)⟩
    split
    · next e =>
      injection e with e _
      exact absurd e (hn a (.head _))
    · rfl

/-- Whether the next turn is a core step does not depend on what follows it. -/
theorem isCoreStep_iff : isCoreStep s = true ↔ s.nextIsCore = true ∧ s.rst = false ∧
    s.status = .run ∧ holds s = false := by
  simp only [isCoreStep, coreEnabled, Bool.and_eq_true, Bool.not_eq_true', beq_iff_eq]
  constructor
  · rintro ⟨a, ⟨b, c⟩, d⟩; exact ⟨a, b, c, d⟩
  · rintro ⟨a, b, c, d⟩; exact ⟨a, ⟨b, c⟩, d⟩

/-- A core turn holds in the state it finds exactly when the state before it does. -/
@[simp] theorem holds_afterTurn : holds s.afterTurn = holds s := rfl

@[simp] theorem coreSteps_zero : coreSteps 0 s = 0 := rfl

@[simp] theorem completedOpcodes_zero : completedOpcodes 0 s = [] := rfl

theorem coreSteps_succ (k : Nat) (h : step s = .next t) :
    coreSteps (k + 1) s = (if isCoreStep s then 1 else 0) + coreSteps k t := by
  simp [coreSteps, h]

theorem completedOpcodes_succ (k : Nat) (h : step s = .next t) :
    completedOpcodes (k + 1) s = (completedOpcode s).toList ++ completedOpcodes k t := by
  simp [completedOpcodes, h]

end Counts

/-! ### The invariant does not depend on the schedule -/

theorem State.Inv.setSchedule {s : State} (h : s.Inv) (ts : List Turn) :
    (Machine.setSchedule ts s).Inv where
  config := h.config
  cursor := h.cursor
  tapeWf := h.tapeWf
  tapeRange := h.tapeRange
  romWf := h.romWf
  romRange := h.romRange
  progLen := h.progLen
  cause := h.cause
  faultIp := h.faultIp
  noFaultIp := h.noFaultIp
  doneIp := h.doneIp
  faultInProgram := h.faultInProgram
  outData := h.outData
  atReset := fun hr =>
    let r := h.atReset hr
    { status := r.status, ip := r.ip, cursor := r.cursor, tape := r.tape, inValid := r.inValid,
      inEof := r.inEof, outStream := r.outStream, inConsumed := r.inConsumed }

end Sys2Proof.Machine
end

