-- ==== Sys2Proof/Tests/Slice0.lean ====
section
/-! SUPPORT. The model's own tests: words written out from the spec's encodings, one step of each
instruction, the well-formedness checks, and a witness for the hypotheses of each statement. Expected
results come from spec/95_test_vectors.md or by hand from the rule named. -/

namespace Sys2Proof.Tests

open Sys2Proof Sys2Proof.Machine Sys2Proof.Builder

/-- The next state, where there is one. -/
def after : Host.Outcome State Fault Refusal → Option State
  | .next s => some s
  | .fault _ => none
  | .refused _ => none

/-- A running machine with 8 cells and 16 ROM words, at index 3 of a program of 9, with the word `w`
there and the value `v` in the cell at the cursor. -/
def cpu (w : Word) (v : Byte) (cursor : TapeIndex) : State :=
  { State.reset with
    cfg := ⟨8, 16⟩, rom := Rom.write [] 3 w, ip := 3, progLen := 9,
    tape := Memory.write [] cursor.toNat v, cursor := cursor }

/-! ### Well-formedness: an ill-formed term for each check (R91) -/

theorem test_wf_inc : (Instr.inc 256).wellFormed = false ∧ (Instr.inc 255).wellFormed = true := by decide
theorem test_wf_dec : (Instr.dec 256).wellFormed = false ∧ (Instr.dec 255).wellFormed = true := by decide
theorem test_wf_left : (Instr.left (2 ^ 28)).wellFormed = false ∧
    (Instr.left (2 ^ 28 - 1)).wellFormed = true := by decide
theorem test_wf_right : (Instr.right (2 ^ 28)).wellFormed = false ∧
    (Instr.right (2 ^ 28 - 1)).wellFormed = true := by decide
theorem test_wf_jmpf : (Instr.jmpf (2 ^ 28)).wellFormed = false ∧
    (Instr.jmpf (2 ^ 28 - 1)).wellFormed = true := by decide
theorem test_wf_jmpb : (Instr.jmpb (2 ^ 28)).wellFormed = false ∧
    (Instr.jmpb (2 ^ 28 - 1)).wellFormed = true := by decide
theorem test_config_invalid : ¬ (Config.mk 0 5).valid ∧ ¬ (Config.mk (2 ^ 28 + 1) 5).valid ∧
    ¬ (Config.mk 1 (2 ^ 28)).valid := by decide

/-! ### Decoding: words written out bit by bit from R91 and R93 (95_test_vectors.md 2.1) -/

theorem test_decode_inc : decode 0b00010000000000000000000000000100#32 = .instr (.inc 4) ∧
    decode 0b00010000000000000000000011111111#32 = .instr (.inc 255) := by decide
theorem test_decode_dec : decode 0b00100000000000000000000000000000#32 = .instr (.dec 0) := by decide
theorem test_decode_left : decode 0b00111111111111111111111111111111#32 = .instr (.left 268435455) := by
  decide
theorem test_decode_right : decode 0b01000000000000000000000000000000#32 = .instr (.right 0) := by decide
theorem test_decode_zero : decode 0b01010000000000000000000000000000#32 = .instr .zero := by decide
theorem test_decode_read : decode 0b01100000000000000000000000000000#32 = .instr .read := by decide
theorem test_decode_write : decode 0b01110000000000000000000000000000#32 = .instr .write := by decide
theorem test_decode_jmpf : decode 0b10000000000000000000000000001101#32 = .instr (.jmpf 13) := by decide
theorem test_decode_jmpb : decode 0b10011111111111111111111111111111#32 = .instr (.jmpb 268435455) := by
  decide
theorem test_decode_illegal :
    decode 0x00000000#32 = .illegal .opcode ∧ decode 0xA0000000#32 = .illegal .opcode ∧
    decode 0xF0000000#32 = .illegal .opcode ∧ decode 0x10000100#32 = .illegal .deltaField ∧
    decode 0x2FFFFF01#32 = .illegal .deltaField ∧ decode 0x50000001#32 = .illegal .operandField ∧
    decode 0x68000000#32 = .illegal .operandField ∧ decode 0x70000080#32 = .illegal .operandField := by
  decide
theorem test_encode : encode (.inc 10) = 0x1000000A#32 ∧ encode (.jmpb 1) = 0x90000001#32 := by decide
theorem test_table_word : decodeTableWord 32 0x40000003 = some (.right 3) ∧
    decodeTableWord 32 0x50000001 = none := by decide
theorem test_image_bytes :
    decodeBytes [0x41, 0x00, 0x00, 0x10, 0x77] = some (.instr (.inc 65), [0x77]) ∧
    imageOfBytes [0x41, 0x00, 0x00] = none := by decide
theorem test_listing : (Instr.inc 4).listing = "INC 4" ∧ Instr.listingAt 1 (.jmpf 7) = "1: JMPF 7" ∧
    Instr.zero.listing = "ZERO" := by decide

/-! ### One step of each instruction (95_test_vectors.md 2.2 to 2.5) -/

theorem test_inc_wraps : (after (step (cpu 0x1000000A 250 5))).map
    (fun t => (tapeRead t, t.ip, t.cursor)) = some (4, 4, 5) := by decide
theorem test_dec_wraps : (after (step (cpu 0x20000003 1 5))).map
    (fun t => (tapeRead t, t.ip, t.cursor)) = some (254, 4, 5) := by decide
theorem test_zero : (after (step (cpu 0x50000000 77 5))).map
    (fun t => (tapeRead t, t.ip, t.tape)) = some (0, 4, []) := by decide
theorem test_left_to_zero : (after (step (cpu 0x30000005 9 5))).map
    (fun t => (t.cursor, t.ip, t.status)) = some (0, 4, .run) := by decide
theorem test_left_faults : (after (step (cpu 0x30000006 9 5))).map
    (fun t => (t.cursor, t.ip, t.status, portCause t, t.faultIp)) = some (5, 3, .fault, 1, 3) := by decide
theorem test_right_to_last : (after (step (cpu 0x40000002 9 5))).map
    (fun t => (t.cursor, t.ip, t.status)) = some (7, 4, .run) := by decide
theorem test_right_faults_without_wrap : (after (step (cpu 0x4FFFFFFF 9 1))).map
    (fun t => (t.cursor, t.ip, t.status, portCause t, t.faultIp)) = some (1, 3, .fault, 2, 3) := by decide
theorem test_read_byte_wins : (after (step
    { cpu 0x60000000 9 5 with inValid := true, inData := 0, inEof := true })).map
    (fun t => (tapeRead t, t.inValid, t.inConsumed, t.ip, t.status)) =
      some (0, false, [0], 4, .run) := by decide
theorem test_read_exhausted : (after (step { cpu 0x60000000 9 5 with inEof := true })).map
    (fun t => (tapeRead t, t.status, portCause t, t.faultIp, t.ip)) = some (9, .fault, 3, 3, 3) := by
  decide
theorem test_write : (after (step { cpu 0x70000000 16 5 with outStream := [1] })).map
    (fun t => (t.outStream, t.outData, tapeRead t, t.ip)) = some ([1, 16], 16, 16, 4) := by decide
theorem test_jmpf : (after (step (cpu 0x80000007 0 5))).map (·.ip) = some 7 ∧
    (after (step (cpu 0x80000007 4 5))).map (·.ip) = some 4 := by decide
theorem test_jmpb : (after (step (cpu 0x90000001 3 5))).map (·.ip) = some 1 ∧
    (after (step (cpu 0x90000001 0 5))).map (·.ip) = some 4 := by decide

/-! ### The cycle, the host and the ports -/

/-- With `PROG_LEN` = 0 the first step after reset sets DONE (R141). -/
theorem test_reset_terminates : (after (step State.reset)).map (fun t => (t.status, t.ip)) =
    some (.done, 0) := by decide
/-- An illegal word faults with code 4 (95_test_vectors.md 2.6). -/
theorem test_illegal : (after (step (cpu 0x50000001 9 5))).map
    (fun t => (t.status, portCause t, t.faultIp, t.ip, tapeRead t)) = some (.fault, 4, 3, 3, 9) := by
  decide
/-- READ with neither a byte nor end of input holds, and `in_req` is 1 (95_test_vectors.md 2.4). -/
theorem test_hold : step (cpu 0x60000000 9 5) = .next (cpu 0x60000000 9 5) ∧
    portInReq (cpu 0x60000000 9 5) = true := ⟨rfl, by decide⟩
/-- A byte presented in a hold is the byte the READ consumes (95_test_vectors.md 2.4). -/
theorem test_present_lifts_hold : (after (Host.Core.run core 2
    { cpu 0x60000000 9 5 with schedule := [.host (.present 0x7A), .core] })).map
    (fun t => (tapeRead t, t.inValid, t.ip)) = some (0x7A, false, 4) := by decide
theorem test_with_fetch_word : (after (step (State.reset.withFetchWord 32 0x40000003))).map
    (fun t => (t.cursor, t.ip, t.progLen)) = some (3, 1, 1) := by decide
/-- `CUR_W` is 19 at the default `TAPE_LEN` (R5), and 1 for tapes of one and of two cells. -/
theorem test_curW : curW Config.reference = 19 ∧ curW ⟨1, 0⟩ = 1 ∧ curW ⟨2, 0⟩ = 1 ∧
    curW ⟨3, 0⟩ = 2 ∧ curW ⟨2 ^ 28, 0⟩ = 28 := by decide

/-- The result of `PROG_LEN` = 0 (95_test_vectors.md 2.6), and none while the run goes on. -/
theorem test_run_result : ((after (step State.reset)).bind runResult) =
    some (.done, .none, 0, 0, 0, [], [], []) ∧ runResult State.reset = none := ⟨rfl, rfl⟩

/-! ### The step count (40_execution_cycle.md R151) -/

/-- A machine at its entry point with an image of `n` words, cell 0 zero, and a schedule. -/
def entry (rom : Rom) (n : RomIndex) (ts : List Turn) : State :=
  { State.reset with cfg := ⟨8, 16⟩, rom := rom, progLen := n, schedule := ts }

/-- `[DEC 1, WRITE]` ends in DONE with two opcodes and 3 steps, however long one looks (95_test_vectors.md
1, S5); `[LEFT 1]` at cell 0 faults with none and 1 step (V of the source `<`). -/
theorem test_step_count :
    coreSteps 6 (entry [(0, 0x20000001), (1, 0x70000000)] 2 []) = 3 ∧
    completedOpcodes 6 (entry [(0, 0x20000001), (1, 0x70000000)] 2 []) = [.dec 1, .write] ∧
    coreSteps 6 (entry [(0, 0x30000001)] 1 []) = 1 ∧
    completedOpcodes 6 (entry [(0, 0x30000001)] 1 []) = [] := by decide
/-- Two turns of hold, a byte, the READ, the termination test: two core steps and one opcode (R151). -/
theorem test_holds_are_not_steps :
    coreSteps 6 (entry [(0, 0x60000000)] 1 [.core, .core, .host (.present 7)]) = 2 ∧
    completedOpcodes 6 (entry [(0, 0x60000000)] 1 [.core, .core, .host (.present 7)]) = [.read] := by
  decide

/-! ### The builder (95_test_vectors.md 1 and 3) -/

theorem test_build_idiom : build 4 16 ['+', '[', '-', ']'] = .image [.inc 1, .zero] ∧
    build 4 16 ['[', '-', '-', ']'] = .image [.jmpf 3, .dec 2, .jmpb 0] := by decide
theorem test_build_comment_breaks_run : build 4 16 ['+', ' ', '+'] = .image [.inc 1, .inc 1] := by decide
theorem test_build_nested : build 4 16 [',', '[', '.', ',', ']'] =
    .image [.read, .jmpf 5, .write, .read, .jmpb 1] := by decide
theorem test_build_refuses : build 0 16 ['[', ']'] = .refused .nestDepth ∧
    build 4 1 ['+', '-'] = .refused .progRange := by decide
theorem test_build_unmatched : build 4 16 ['+', ']'] = .refused .unmatchedLoopEnd ∧
    build 4 16 ['[', '+'] = .refused .unmatchedLoopStart ∧
    build 4 16 ['['] = .refused .unmatchedLoopStart := by decide
theorem test_build_naive : buildNaive 4 16 ['>', '>', '[', '-', ']'] =
    .image [.right 1, .right 1, .jmpf 5, .dec 1, .jmpb 2] := by decide

end Sys2Proof.Tests
end

