-- ==== Sys2Proof/Tests/Witness0.lean ====
section
/-! SUPPORT. For each statement with hypotheses, a concrete state and operands that meet all of them
together, at a boundary value for each clause. -/

namespace Sys2Proof.Tests

open Sys2Proof Sys2Proof.Machine Sys2Proof.Builder

/-- The words of the tests: one instruction each, and an illegal word. -/
theorem cpu_legal : (cpu 0x30000006 9 5).Inv where
  config := by decide
  cursor := by decide
  tapeWf := by decide
  tapeRange := by decide
  romWf := by decide
  romRange := by decide
  progLen := by decide
  cause := by decide
  faultIp := by decide
  noFaultIp := by decide
  doneIp := by decide
  faultInProgram := by decide
  outData := by decide
  atReset := fun h => absurd h (by decide)

theorem witness_DecodeReadsBackEveryEncoding : (Instr.left (2 ^ 28 - 1)).wellFormed = true ∧
    (Instr.dec 255).wellFormed = true := by decide

theorem witness_EncodeRebuildsEveryDecodedWord : decode 0x9FFFFFFF#32 = .instr (.jmpb 268435455) := by
  decide

theorem witness_IllegalWordsAreExactlyThose : (cpu 0x50000001 9 5).fetches ∧
    (cpu 0x50000001 9 5).progLen.toNat ≤ (cpu 0x50000001 9 5).cfg.romDepth ∧
    decode (Rom.read (cpu 0x50000001 9 5).rom (cpu 0x50000001 9 5).ip.toNat) = .illegal .operandField := by
  decide

theorem witness_ImageBytesAreLittleEndian : 1 < [0x10000004#32, 0x70000000#32].length ∧ 3 < 4 := by decide

theorem witness_CellAluWrapsModulo256 : 255 < 256 ∧ 1 ≤ 255 ∧
    ∃ t, exec (.inc 255) (cpu 0x100000FF 9 5) = .next t := ⟨by decide, by decide, _, rfl⟩

/-- For INC and DEC: the largest delta, at the last cell; and a word that is no INC and one that is no DEC. -/
theorem witness_IncAddsToCurrentCell : 255 < 256 ∧
    (cpu 0x100000FF 9 7).cursor.toNat < (cpu 0x100000FF 9 7).cfg.tapeLen ∧
    (0x10000100#32).extractLsb' 28 4 = 1#4 ∧ (0x10000100#32).extractLsb' 8 20 ≠ 0 := by decide

theorem witness_DecSubtractsFromCurrentCell : 255 < 256 ∧
    (cpu 0x200000FF 9 7).cursor.toNat < (cpu 0x200000FF 9 7).cfg.tapeLen ∧
    (0x2FFFFF01#32).extractLsb' 28 4 = 2#4 ∧ (0x2FFFFF01#32).extractLsb' 8 20 ≠ 0 := by decide

theorem witness_ZeroClearsCurrentCell :
    (cpu 0x50000000 9 7).cursor.toNat < (cpu 0x50000000 9 7).cfg.tapeLen ∧
    (0x50000001#32).extractLsb' 28 4 = 5#4 := by decide

/-- A machine with the loop of `[-]` at indices 3 to 5. -/
def loopCpu (v : Byte) : State :=
  { cpu 0x80000006 v 5 with
    rom := [(3, 0x80000006), (4, 0x20000001), (5, 0x90000003)], progLen := 6 }

theorem witness_ZeroEqualsTheLoopItReplaces : (loopCpu 2).rst = false ∧ (loopCpu 2).status = .run ∧
    (loopCpu 2).schedule = [] ∧ (loopCpu 2).cursor.toNat < (loopCpu 2).cfg.tapeLen ∧
    (loopCpu 2).progLen.toNat ≤ (loopCpu 2).cfg.romDepth ∧ (loopCpu 2).ip.toNat = 3 ∧
    3 + 3 ≤ (loopCpu 2).progLen.toNat ∧
    decode (Rom.read (loopCpu 2).rom 3) = .instr (.jmpf (3 + 3)) ∧
    decode (Rom.read (loopCpu 2).rom (3 + 1)) = .instr (.dec 1) ∧
    decode (Rom.read (loopCpu 2).rom (3 + 2)) = .instr (.jmpb 3) := by decide

/-- The two cases of the loop's cost (R294): a cell of 2 takes 6 steps, a cell of 0 takes one. -/
theorem test_zero_loop :
    (after (Host.Core.run core 6 (loopCpu 2))).map (fun t => (tapeRead t, t.ip)) = some (0, 6) ∧
    (after (Host.Core.run core 1 (loopCpu 0))).map (fun t => (tapeRead t, t.ip)) = some (0, 6) := by
  decide

theorem witness_CountedDeltasAddUp : 200 < 256 ∧ 255 < 256 ∧
    (cpu 0x100000C8 9 7).cursor.toNat < (cpu 0x100000C8 9 7).cfg.tapeLen := by decide

/-- In bounds exactly to 0; out of bounds by one. -/
theorem witness_LeftMovesOrFaults : 2 ^ 28 - 1 < 2 ^ 28 ∧ (0x3FFFFFFF#32).extractLsb' 28 4 = 3#4 ∧
    5 ≤ (cpu 0x30000005 9 5).cursor.toNat ∧ (cpu 0x30000006 9 5).cursor.toNat < 6 := by decide

/-- In bounds exactly to the last cell; out of bounds by one. -/
theorem witness_RightMovesOrFaults : 2 ^ 28 - 1 < 2 ^ 28 ∧ (0x40000003#32).extractLsb' 28 4 = 4#4 ∧
    (cpu 0x40000002 9 5).cfg.valid ∧
    (cpu 0x40000002 9 5).cursor.toNat + 2 ≤ (cpu 0x40000002 9 5).cfg.tapeLen - 1 ∧
    (cpu 0x40000003 9 5).cfg.tapeLen - 1 < (cpu 0x40000003 9 5).cursor.toNat + 3 := by decide

/-- Targets 0 and -1 to the left, 7 and 8 to the right, on 8 cells. -/
theorem witness_CursorMoveIsNeverWrappedOrClamped :
    ((cpu 0x30000006 9 5).cfg.valid ∧ (cpu 0x30000006 9 5).status = .run ∧
      (cpu 0x30000006 9 5).cursor.toNat < (cpu 0x30000006 9 5).cfg.tapeLen) ∧
    (∃ t, (0 : Int) = ((cpu 0x30000006 9 5).cursor.toNat : Int) - (5 : Nat) ∧
      exec (.left 5) (cpu 0x30000006 9 5) = .next t) ∧
    (∃ t, (-1 : Int) = ((cpu 0x30000006 9 5).cursor.toNat : Int) - (6 : Nat) ∧
      exec (.left 6) (cpu 0x30000006 9 5) = .next t) ∧
    (∃ t, (7 : Int) = ((cpu 0x30000006 9 5).cursor.toNat : Int) + (2 : Nat) ∧
      exec (.right 2) (cpu 0x30000006 9 5) = .next t) ∧
    (∃ t, (8 : Int) = ((cpu 0x30000006 9 5).cursor.toNat : Int) + (3 : Nat) ∧
      exec (.right 3) (cpu 0x30000006 9 5) = .next t) :=
  ⟨by decide, ⟨_, by decide, rfl⟩, ⟨_, by decide, rfl⟩, ⟨_, by decide, rfl⟩, ⟨_, by decide, rfl⟩⟩

theorem witness_EagerCheckStopsAtTheMove :
    ((cpu 0x30000006 9 5).fetches ∧
      (cpu 0x30000006 9 5).progLen.toNat ≤ (cpu 0x30000006 9 5).cfg.romDepth ∧
      (cpu 0x30000006 9 5).schedule = [] ∧
      decode (Rom.read (cpu 0x30000006 9 5).rom 3) = .instr (.left 6) ∧
      (cpu 0x30000006 9 5).cursor.toNat < 6) ∧
    ((cpu 0x40000003 9 5).fetches ∧
      (cpu 0x40000003 9 5).progLen.toNat ≤ (cpu 0x40000003 9 5).cfg.romDepth ∧
      (cpu 0x40000003 9 5).schedule = [] ∧
      decode (Rom.read (cpu 0x40000003 9 5).rom 3) = .instr (.right 3) ∧
      (cpu 0x40000003 9 5).cfg.tapeLen ≤ (cpu 0x40000003 9 5).cursor.toNat + 3) := by decide

/-- A machine at READ with a byte waiting, one at the end of input, and one that holds. -/
def readByte : State := { cpu 0x60000000 9 7 with inValid := true, inData := 0x41, inEof := true }
def readEof : State := { cpu 0x60000000 9 7 with inEof := true }
def readHold : State := cpu 0x60000000 9 7

theorem witness_ReadConsumesOrFaultsOrHolds :
    (readByte.inValid = true ∧ readByte.cursor.toNat < readByte.cfg.tapeLen) ∧
    (readEof.inValid = false ∧ readEof.inEof = true) ∧
    (readHold.inValid = false ∧ readHold.inEof = false) ∧
    (0x68000000#32).extractLsb' 28 4 = 6#4 := by decide

theorem witness_WriteEmitsCurrentCell :
    (cpu 0x70000000 9 7).cursor.toNat < (cpu 0x70000000 9 7).cfg.tapeLen ∧
    (0x70000080#32).extractLsb' 28 4 = 7#4 := by decide

theorem witness_StreamsGrowOnlyByWriteAndRead :
    (∃ t, step (cpu 0x70000000 9 7) = .next t) ∧ (cpu 0x70000000 9 7).nextIsReset = false ∧
    (∃ t, step readByte = .next t) ∧ readByte.nextIsReset = false :=
  ⟨⟨_, rfl⟩, by decide, ⟨_, rfl⟩, by decide⟩

theorem witness_PulsesMarkConsumedAndEmittedBytes :
    (∃ t, coreStep readByte = .next t) ∧ portInAck readByte = true ∧
    (∃ t, coreStep (cpu 0x70000000 9 7) = .next t) ∧ portOutStrobe (cpu 0x70000000 9 7) = true :=
  ⟨⟨_, rfl⟩, by decide, ⟨_, rfl⟩, by decide⟩

theorem witness_JmpfJumpsOnZero : 2 ^ 28 - 1 < 2 ^ 28 ∧ (0x8000000D#32).extractLsb' 28 4 = 8#4 ∧
    (cpu 0x80000007 0 7).cursor.toNat < (cpu 0x80000007 0 7).cfg.tapeLen ∧
    Memory.read (cpu 0x80000007 0 7).tape 7 = 0 ∧ Memory.read (cpu 0x80000007 1 7).tape 7 ≠ 0 := by
  decide

theorem witness_JmpbJumpsOnNonZero : 2 ^ 28 - 1 < 2 ^ 28 ∧ (0x9FFFFFFF#32).extractLsb' 28 4 = 9#4 ∧
    (cpu 0x90000001 1 7).cursor.toNat < (cpu 0x90000001 1 7).cfg.tapeLen ∧
    Memory.read (cpu 0x90000001 1 7).tape 7 ≠ 0 ∧ Memory.read (cpu 0x90000001 0 7).tape 7 = 0 := by
  decide

/-- A READ that consumes, a LEFT that faults and a jump, on a running machine. -/
theorem witness_NextIpMultiplexer : readByte.status = .run ∧
    (∃ t, exec .read readByte = .next t ∧ t.status = .run ∧ ¬ (readByte.inValid = false)) ∧
    (∃ t, exec (.left 9) readByte = .next t ∧ t.status = .fault) ∧
    (∃ t, exec (.jmpb 2) readByte = .next t ∧ t.status = .run) :=
  ⟨rfl, ⟨_, rfl, rfl, by decide⟩, ⟨_, rfl, rfl⟩, ⟨_, rfl, rfl⟩⟩

/-- RESET in the middle of a program. -/
theorem witness_IpChangesOnlyByAdvanceJumpOrReset :
    (∃ t, (setSchedule [.host .assertReset] (cpu 0x30000006 9 5)).Inv ∧
      step (setSchedule [.host .assertReset] (cpu 0x30000006 9 5)) = .next t ∧ t.ip ≠ 3) ∧
    (cpu 0x30000006 9 5).ip = 3 :=
  ⟨⟨_, cpu_legal.setSchedule _, rfl, by decide⟩, rfl⟩

theorem witness_JumpPastTheEndTerminates :
    (cpu 0x80000009 0 7).fetches ∧ (cpu 0x80000009 0 7).progLen.toNat ≤ (cpu 0x80000009 0 7).cfg.romDepth ∧
    (cpu 0x80000009 0 7).schedule = [] ∧
    (cpu 0x80000009 0 7).cursor.toNat < (cpu 0x80000009 0 7).cfg.tapeLen ∧
    (cpu 0x80000009 0 7).progLen.toNat ≤ 9 ∧
    decode (Rom.read (cpu 0x80000009 0 7).rom 3) = .instr (.jmpf 9) ∧
    Memory.read (cpu 0x80000009 0 7).tape 7 = 0 ∧
    decode (Rom.read (cpu 0x90000009 1 7).rom 3) = .instr (.jmpb 9) ∧
    Memory.read (cpu 0x90000009 1 7).tape 7 ≠ 0 := by decide

theorem witness_StepRunsTheDecodedInstruction :
    (cpu 0x70000000 9 7).nextIsCore = true ∧ (cpu 0x70000000 9 7).fetches ∧
    (cpu 0x70000000 9 7).progLen.toNat ≤ (cpu 0x70000000 9 7).cfg.romDepth ∧
    decode (Rom.read (cpu 0x70000000 9 7).rom (cpu 0x70000000 9 7).ip.toNat) = .instr .write := by decide

/-- A program that has run to its end: `IP` = `PROG_LEN`. -/
def atEnd : State := { cpu 0x70000000 9 7 with ip := 9 }

theorem witness_TerminationSetsDoneAndNothingElse : atEnd.nextIsCore = true ∧ atEnd.rst = false ∧
    atEnd.status = .run ∧ atEnd.progLen.toNat ≤ atEnd.ip.toNat := by decide

theorem witness_CoreWithoutStepChangesNothing : readHold.progLen.toNat ≤ readHold.cfg.romDepth ∧
    coreEnabled readHold = false ∧ coreEnabled readByte = true := by decide

theorem witness_HoldIsLiftedOnlyByTheHost : holds readHold = true ∧ readHold.rst = false ∧
    readHold.progLen.toNat ≤ readHold.cfg.romDepth ∧
    readHold.cursor.toNat < readHold.cfg.tapeLen ∧
    ∃ u, hostStep (.readTape 7) readHold = .next u :=
  ⟨by decide, by decide, by decide, by decide, _, rfl⟩

/-- A run that has finished and one that has faulted, each with a core turn. -/
theorem witness_TerminalStatesAreLeftOnlyByReset :
    (finish atEnd).status ≠ .run ∧ (∃ t, step (finish atEnd) = .next t) ∧
    (finish atEnd).nextIsReset = false ∧ (finish atEnd).nextIsCore = true ∧
    (raiseFault .inputExhausted readEof).status ≠ .run ∧
    (∃ t, step (raiseFault .inputExhausted readEof) = .next t) :=
  ⟨by decide, ⟨_, rfl⟩, by decide, by decide, by decide, ⟨_, rfl⟩⟩

theorem witness_FaultsArePrecise : ∃ t, (cpu 0x30000006 9 5).Inv ∧ (cpu 0x30000006 9 5).status ≠ .fault ∧
    step (cpu 0x30000006 9 5) = .next t ∧ t.status = .fault :=
  ⟨_, cpu_legal, by decide, rfl, rfl⟩

theorem witness_CauseCodesNameTheirConditions : ∃ t, (cpu 0x30000006 9 5).Inv ∧
    (cpu 0x30000006 9 5).fetches ∧ coreStep (cpu 0x30000006 9 5) = .next t ∧ portCause t = 1 :=
  ⟨_, cpu_legal, by decide, rfl, rfl⟩

theorem witness_ArithmeticWriteAndJumpsNeverFault :
    (cpu 0x70000000 9 7).cursor.toNat < (cpu 0x70000000 9 7).cfg.tapeLen ∧
    (∀ n, Instr.write ≠ .left n) ∧ (∀ n, Instr.write ≠ .right n) ∧ Instr.write ≠ .read :=
  ⟨by decide, fun _ => nofun, fun _ => nofun, nofun⟩

/-- The hypotheses of `TestsAreMadeInOrder`. -/
def atTests (s : State) : Prop := s.rst = false ∧ s.status = .run ∧
  s.progLen.toNat ≤ s.cfg.romDepth ∧ s.cursor.toNat < s.cfg.tapeLen

/-- A state in each arm: `IP` = `PROG_LEN`, an illegal word, LEFT and RIGHT by one too many and by just as
many as fit, READ with a byte and end of input, with end of input only, and with neither. -/
theorem witness_TestsAreMadeInOrder :
    (atTests atEnd ∧ atEnd.ip = atEnd.progLen) ∧
    (atTests (cpu 0x50000001 9 5) ∧ ∃ why, decode (fetchWord (cpu 0x50000001 9 5)) = .illegal why) ∧
    (atTests (cpu 0x30000006 9 5) ∧ decode (fetchWord (cpu 0x30000006 9 5)) = .instr (.left 6)) ∧
    (atTests (cpu 0x30000005 9 5) ∧ decode (fetchWord (cpu 0x30000005 9 5)) = .instr (.left 5)) ∧
    (atTests (cpu 0x40000003 9 5) ∧ decode (fetchWord (cpu 0x40000003 9 5)) = .instr (.right 3)) ∧
    (atTests (cpu 0x40000002 9 5) ∧ decode (fetchWord (cpu 0x40000002 9 5)) = .instr (.right 2)) ∧
    (atTests readByte ∧ readByte.inValid = true ∧ readByte.inEof = true) ∧
    (atTests readEof ∧ readEof.inValid = false ∧ readEof.inEof = true) ∧
    (atTests readHold ∧ readHold.inValid = false ∧ readHold.inEof = false) ∧
    atTests (cpu 0x70000000 9 7) := by
  unfold atTests
  exact ⟨by decide, ⟨by decide, _, rfl⟩, by decide, by decide, by decide, by decide, by decide,
    by decide, by decide, by decide⟩

theorem witness_EachInstructionKeepsItsFrame : (∃ t, exec (.dec 9) readByte = .next t) ∧
    (∃ t, exec .read readByte = .next t) ∧ (∃ t, exec (.right 9) readByte = .next t) :=
  ⟨⟨_, rfl⟩, ⟨_, rfl⟩, ⟨_, rfl⟩⟩

theorem witness_OnlyTheCurrentCellIsRead :
    Memory.read [(0, 5), (7, 9)] readHold.cursor.toNat = Memory.read readHold.tape readHold.cursor.toNat ∧
    (∃ t, exec (.inc 1) readHold = .next t) ∧
    ∀ t, exec (.inc 1) { readHold with cursor := 8 } ≠ .next t :=
  ⟨by decide, ⟨_, rfl⟩, fun _ => nofun⟩

theorem witness_ProgramIsImmutableDuringARun : ∃ t, step readByte = .next t ∧ readByte.rst = false ∧
    readByte.nextIsCore = true := ⟨_, rfl, by decide, by decide⟩

/-- A step for each clause: PRESENT sets `IN_VALID` (and here changes `IN_DATA`), SIGNAL_EOF sets `IN_EOF`,
a READ clears `IN_VALID` and keeps `IN_EOF`, and a step that leaves a waiting byte. -/
theorem witness_InputRegisterIsWrittenOnlyAsStated :
    (∃ t, step (setSchedule [.host (.present 7)] readHold) = .next t ∧
      (setSchedule [.host (.present 7)] readHold).nextIsReset = false ∧
      readHold.inValid = false ∧ t.inValid = true ∧ t.inData ≠ readHold.inData) ∧
    (∃ t, step (setSchedule [.host .signalEof] readHold) = .next t ∧
      (setSchedule [.host .signalEof] readHold).nextIsReset = false ∧
      readHold.inEof = false ∧ t.inEof = true) ∧
    (∃ t, step readByte = .next t ∧ readByte.nextIsReset = false ∧ readByte.inEof = true ∧
      readByte.inValid = true ∧ t.inValid = false) ∧
    (∃ t, step { readByte with ip := 9 } = .next t ∧ readByte.inValid = true ∧ t.inValid = true) :=
  ⟨⟨_, rfl, by decide, by decide, rfl, by decide⟩, ⟨_, rfl, by decide, by decide, rfl⟩,
    ⟨_, rfl, by decide, by decide, by decide, rfl⟩, ⟨_, rfl, by decide, rfl⟩⟩

theorem witness_EveryStepKeepsTheMachineLegal :
    ∃ t, (cpu 0x30000006 9 5).Inv ∧ step (cpu 0x30000006 9 5) = .next t := ⟨_, cpu_legal, rfl⟩

/-- A legal state whose next turn the host has, and states whose next turn it has not. -/
theorem witness_LegalMachineNeverStops : (cpu 0x30000006 9 5).Inv ∧
    (cpu 0x30000006 9 5).nextMoveBad = false ∧
    (setSchedule [.host (.loadProgLen 5)] (cpu 0x30000006 9 5)).Inv ∧
    (setSchedule [.host (.loadProgLen 5)] (cpu 0x30000006 9 5)).nextMoveBad = true :=
  ⟨cpu_legal, by decide, cpu_legal.setSchedule _, by decide⟩

theorem witness_ResetMoveSetsEveryResetValue :
    (setSchedule [.host .assertReset] readByte).schedule = .host .assertReset :: [] := rfl

theorem witness_PresentSetsTheInputRegister :
    (setSchedule [.host (.present 7)] readHold).schedule = .host (.present 7) :: [] ∧
    (readHold.rst = false ∧ readHold.inValid = false ∧ readHold.inEof = false) ∧
    ¬ (readEof.rst = false ∧ readEof.inValid = false ∧ readEof.inEof = false) := by decide

theorem witness_SignalEofIsStickyUntilReset :
    (setSchedule [.host .signalEof] readHold).schedule = .host .signalEof :: [] ∧
    (readHold.rst = false ∧ readHold.inEof = false) ∧ ¬ (readEof.rst = false ∧ readEof.inEof = false) ∧
    (readByte.inEof = true ∧ readByte.noResetWithin 2 ∧
      ∃ t, Host.Core.run core 2 readByte = .next t) :=
  ⟨by decide, by decide, by decide, by decide, by decide, _, rfl⟩

/-- Under reset: the last ROM word, the first index past it, `PROG_LEN` at `ROM_DEPTH` and one above it. -/
theorem witness_LoadingWorksOnlyUnderReset : (resetAll readByte).rst = true ∧
    (15 : RomIndex).toNat < (resetAll readByte).cfg.romDepth ∧
    (resetAll readByte).cfg.romDepth ≤ (16 : RomIndex).toNat ∧
    (16 : RomIndex).toNat ≤ (resetAll readByte).cfg.romDepth ∧
    (resetAll readByte).cfg.romDepth < (17 : RomIndex).toNat ∧ readByte.rst = false := by decide

theorem witness_BootLoadsTheImage : readByte.cfg.valid ∧
    (List.replicate 16 (0x70000000 : Word)).length ≤ readByte.cfg.romDepth := by decide

/-- The last cell is read back after the run, and its index fits the port. -/
theorem witness_ReadbackShowsTheTapeAfterTheRun : (finish atEnd).rst = false ∧
    (finish atEnd).status = .done ∧ (7 : TapeIndex).toNat < (finish atEnd).cfg.tapeLen ∧
    (7 : TapeIndex).toNat < 2 ^ curW (finish atEnd).cfg ∧
    (raiseFault .inputExhausted readEof).status = .fault := by decide

theorem witness_HostNeverChangesControlFlow :
    ∃ t, hostStep .signalEof readHold = .next t ∧ HostMove.signalEof ≠ .assertReset :=
  ⟨_, rfl, by decide⟩

theorem witness_RunBuildsOneCountedWord : 1 ≤ 256 ∧ 1 ≤ 1 ∧ 2 ^ 28 - 1 ≤ 2 ^ 28 - 1 ∧
    2 ^ 28 - 1 < 2 ^ 28 := by decide

/-- `+]`, `[+` and `[]`, each as long as `MAX_NEST` = 2 lets it be. -/
theorem witness_UnmatchedLoopsAreRefused :
    openLoops 0 (['+', ']'].map roleOf) = none ∧ openLoops 0 (['[', '+'].map roleOf) = some (0 + 1) ∧
    openLoops 0 (['[', ']'].map roleOf) = some 0 ∧ ['+', ']'].length ≤ 2 ∧
    ['[', '+'].length ≤ 2 ^ 28 - 1 := by decide

theorem witness_BuiltImagesAreLegalAndFit :
    build 4 16 [',', '[', '.', ',', ']'] = .image [.read, .jmpf 5, .write, .read, .jmpb 1] := by decide

/-- Two nested loops: the pairs (0, 3) and (1, 2). -/
theorem witness_BuiltJumpsPairLikeParentheses :
    build 4 16 ['[', '[', ']', ']'] = .image [.jmpf 4, .jmpf 3, .jmpb 1, .jmpb 0] := by decide

/-- A run that goes on (in a hold and then not), one that ends in DONE, and one that ends in FAULT. -/
theorem witness_RunTakesOneCoreStepForEachOpcode :
    (readHold.status = .run ∧ readHold.noResetWithin 1 ∧ holds readHold = true ∧
      ∃ t, Host.Core.run core 1 readHold = .next t ∧ t.status = .run) ∧
    (atEnd.status = .run ∧ atEnd.noResetWithin 1 ∧
      ∃ t, step atEnd = .next t ∧ Host.Core.run core 1 atEnd = .next t ∧ t.status = .done ∧
        t.noResetWithin 1) ∧
    (readEof.status = .run ∧ readEof.noResetWithin 1 ∧
      ∃ t, step readEof = .next t ∧ Host.Core.run core 1 readEof = .next t ∧ t.status = .fault) ∧
    completedOpcode readByte = some .read :=
  ⟨⟨by decide, by decide, by decide, _, rfl, rfl⟩,
    ⟨by decide, by decide, _, rfl, rfl, rfl, fun _ h => nomatch h⟩,
    ⟨by decide, by decide, _, rfl, rfl, rfl⟩, by decide⟩

end Sys2Proof.Tests
end

/-! What one step, of the core or of the host, keeps of the state (10_state.md, R21 to R37): the parameters and
the program, the input register, what DONE and FAULT fix, and the invariant. -/

namespace Sys2Proof.Machine

/-! ### The two agents' turns -/

section Turns

variable {s t : State} {m : HostMove} {rest : List Turn}

/-- What a core turn can do, without the instruction it ran: nothing, terminate, or, where it fetches, one of
the core's effects. -/
theorem coreStep_effect (h : coreStep s = .next t) :
    t = s ∨ (s.rst = false ∧ s.status = .run ∧ s.progLen.toNat ≤ s.ip.toNat ∧ t = finish s) ∨
    (s.fetches ∧ CoreEffect s t) := by
  rcases coreStep_next h with ⟨-, ht⟩ | ⟨hr, hs, ⟨hp, ht⟩ | ⟨hp, -, hw⟩⟩
  · exact .inl ht
  · exact .inr (.inl ⟨hr, hs, hp, ht⟩)
  · refine .inr (.inr ⟨⟨hr, hs, hp⟩, ?_⟩)
    rcases hw with ⟨_, -, rfl⟩ | ⟨i, -, he⟩
    · exact .raised _ (by decide)
    · exact exec_effect he

theorem nextIsCore_of_host (h : s.schedule = .host m :: rest) : s.nextIsCore = false := by
  simp [State.nextIsCore, h]

theorem ne_assertReset_of_nextIsReset (h : s.schedule = .host m :: rest)
    (hn : s.nextIsReset = false) : m ≠ .assertReset := by
  rintro rfl
  simp [State.nextIsReset, h] at hn

end Turns

/-! ### The invariant, operation by operation -/

/-- With `rst` = 0 the clause of the invariant on `rst` = 1 asks for nothing. -/
theorem State.atReset_of_rst_false {s : State} (h : s.rst = false) : s.rst = true → s.AtReset :=
  fun e => nomatch h.symm.trans e

/-- A legal state in which the core is executing: what every effect of a core step on a running machine, but
for a fault, keeps. -/
structure State.LegalRunning (s : State) : Prop where
  inv : s.Inv
  rst : s.rst = false
  status : s.status = .run

namespace State.LegalRunning

variable {s : State} (h : s.LegalRunning)
include h

/-- A legal running state stays one under a change of `IP` alone, which is bound only in DONE and FAULT. -/
theorem setIp (p : RomIndex) : State.LegalRunning { s with ip := p } where
  rst := h.rst
  status := h.status
  inv :=
    { h.inv with
      faultIp := fun e => nomatch h.status.symm.trans e
      doneIp := fun e => nomatch h.status.symm.trans e
      faultInProgram := fun e => nomatch h.status.symm.trans e
      atReset := State.atReset_of_rst_false h.rst }

theorem advance : (Machine.advance s).LegalRunning := h.setIp _

theorem jumpTo (d : Nat) : (Machine.jumpTo d s).LegalRunning := h.setIp _

theorem tapeWrite (v : Byte) : (Machine.tapeWrite v s).LegalRunning where
  rst := h.rst
  status := h.status
  inv :=
    { h.inv with
      tapeWf := Memory.write_wf _ _ _ h.inv.tapeWf
      tapeRange := Memory.write_range _ _ _ _ h.inv.cursor h.inv.tapeRange
      atReset := State.atReset_of_rst_false h.rst }

/-- The cursor goes to a target inside the tape, which the register can hold since `TAPE_LEN` is at most
2^28. -/
theorem setCursor {target : Int} (h0 : 0 ≤ target) (hlt : target < s.cfg.tapeLen) :
    (Machine.setCursor target s).LegalRunning where
  rst := h.rst
  status := h.status
  inv :=
    { h.inv with
      cursor := by
        obtain ⟨-, hmax, -⟩ := h.inv.config
        have := cursorOf_toNat target h0 (by omega)
        change (cursorOf target).toNat < s.cfg.tapeLen
        omega
      atReset := State.atReset_of_rst_false h.rst }

theorem consumeInput : (Machine.consumeInput s).LegalRunning where
  rst := h.rst
  status := h.status
  inv := { h.inv with atReset := State.atReset_of_rst_false h.rst }

theorem emit (b : Byte) : (Machine.emit b s).LegalRunning where
  rst := h.rst
  status := h.status
  inv :=
    { h.inv with
      outData := by simp
      atReset := State.atReset_of_rst_false h.rst }

/-- Termination is legal where `IP` has reached the end of the program (R141). -/
theorem finish (hp : s.progLen.toNat ≤ s.ip.toNat) : (Machine.finish s).Inv :=
  { h.inv with
    cause := by simpa [h.status] using h.inv.cause
    faultIp := fun e => nomatch e
    noFaultIp := fun _ => h.inv.noFaultIp (by simp [h.status])
    doneIp := fun _ => hp
    faultInProgram := fun e => nomatch e
    atReset := State.atReset_of_rst_false h.rst }

/-- A fault is legal where `IP` names an opcode of the program (R246). -/
theorem raiseFault {c : Cause} (hc : c ≠ .none) (hp : s.ip.toNat < s.progLen.toNat) :
    (Machine.raiseFault c s).Inv :=
  { h.inv with
    cause := by simpa using hc
    faultIp := fun _ => rfl
    noFaultIp := fun e => absurd rfl e
    doneIp := fun e => nomatch e
    faultInProgram := fun _ => hp
    atReset := State.atReset_of_rst_false h.rst }

/-- Every effect of a fetch on a legal running machine leads to a legal state. -/
theorem coreEffect {t : State} (hp : s.ip.toNat < s.progLen.toNat) (he : CoreEffect s t) : t.Inv := by
  cases he with
  | store v => exact (h.tapeWrite v).advance.inv
  | moveLeft n hn =>
    have hc := h.inv.cursor
    exact (h.setCursor (by unfold leftTarget; omega) (by unfold leftTarget; omega)).advance.inv
  | moveRight n hn =>
    exact (h.setCursor (by unfold rightTarget; omega) (by unfold rightTarget; omega)).advance.inv
  | consume => exact (h.tapeWrite _).consumeInput.advance.inv
  | emitCell => exact (h.emit _).advance.inv
  | jump d => exact (h.jumpTo d).inv
  | fallThrough => exact h.advance.inv
  | raised c hc => exact h.raiseFault hc hp
  | hold => exact h.inv

end State.LegalRunning

namespace State.Inv

variable {s t : State} (h : s.Inv)
include h

theorem coreStep (hs : coreStep s = .next t) : t.Inv := by
  rcases coreStep_effect hs with rfl | ⟨hr, hrun, hp, rfl⟩ | ⟨⟨hr, hrun, hp⟩, he⟩
  · exact h
  · exact State.LegalRunning.finish ⟨h, hr, hrun⟩ hp
  · exact State.LegalRunning.coreEffect ⟨h, hr, hrun⟩ hp he

/-- RESET reaches a legal state from every legal one: index 0 is in every tape (R5). -/
theorem resetAll : (Machine.resetAll s).Inv :=
  { h with
    cursor := h.config.1
    tapeWf := Memory.nil_wf
    tapeRange := fun _ hp => nomatch hp
    cause := by simp
    faultIp := fun e => nomatch e
    noFaultIp := fun _ => rfl
    doneIp := fun e => nomatch e
    faultInProgram := fun e => nomatch e
    outData := fun _ hb => nomatch hb
    atReset := fun _ => ⟨rfl, rfl, rfl, rfl, rfl, rfl, rfl, rfl⟩ }

/-- A load of a word stays inside the ROM and keeps its canonical form. -/
theorem romPort (a : RomIndex) (w : Word) : (Machine.romPort a w s).Inv := by
  unfold Machine.romPort
  split
  · next hen =>
    have ha : a.toNat < s.cfg.romDepth := by simp_all
    exact
      { h with
        romWf := Rom.write_wf _ _ _ h.romWf
        romRange := Rom.write_range _ _ _ _ ha h.romRange
        atReset := fun e => { h.atReset e with } }
  · exact h

/-- A load of `PROG_LEN` happens only while `rst` = 1, where `STATE` is RUN and `PROG_LEN` bounds no `IP`. -/
theorem progLenPort {n : RomIndex} (hn : n.toNat ≤ s.cfg.romDepth) :
    (Machine.progLenPort n s).Inv := by
  unfold Machine.progLenPort
  split
  · next hr =>
    have hrun := (h.atReset hr).status
    exact
      { h with
        progLen := hn
        doneIp := fun e => nomatch hrun.symm.trans e
        faultInProgram := fun e => nomatch hrun.symm.trans e
        atReset := fun e => { h.atReset e with } }
  · exact h

/-- An enabled host move keeps the invariant. -/
theorem moveEffect {m : HostMove} (hm : moveEnabled m s = true) : (Machine.moveEffect m s).Inv := by
  cases m with
  | present b =>
    have hr : s.rst = false := by simp_all [moveEnabled]
    exact { h with atReset := State.atReset_of_rst_false hr }
  | signalEof =>
    have hr : s.rst = false := by simp_all [moveEnabled]
    exact { h with atReset := State.atReset_of_rst_false hr }
  | assertReset => exact h.resetAll
  | releaseReset => exact { h with atReset := State.atReset_of_rst_false rfl }
  | loadWord a w => exact h.romPort a w
  | loadProgLen n =>
    have hn : n.toNat ≤ s.cfg.romDepth := by simp_all [moveEnabled]
    exact h.progLenPort hn
  | readTape a => exact { h with atReset := fun e => { h.atReset e with } }

theorem step (hs : step s = .next t) : t.Inv := by
  rcases step_next hs with ⟨-, hc⟩ | ⟨m, rest, -, hm, rfl⟩
  · exact (h.setSchedule _).coreStep hc
  · exact (h.setSchedule _).moveEffect hm

end State.Inv

/-- Settles O41: the core's turn and every enabled host move keep the invariant, operation by operation. -/
theorem everyStepKeepsTheMachineLegal : Obligations.EveryStepKeepsTheMachineLegal :=
  fun _ _ h hs => h.step hs

/-! ### What the host leaves, and what DONE and FAULT fix -/

/-- What no host move but RESET writes: the control state, the tape, `OUT_DATA` and the streams (R248). -/
structure State.SameControl (s t : State) : Prop where
  ip : t.ip = s.ip
  cursor : t.cursor = s.cursor
  tape : t.tape = s.tape
  status : t.status = s.status
  cause : t.cause = s.cause
  faultIp : t.faultIp = s.faultIp
  outData : t.outData = s.outData
  outStream : t.outStream = s.outStream
  inConsumed : t.inConsumed = s.inConsumed

theorem moveEffect_sameControl {s : State} {m : HostMove} (hm : m ≠ .assertReset) :
    s.SameControl (moveEffect m s) := by
  cases m with
  | assertReset => exact absurd rfl hm
  | loadWord a w => constructor <;> simp [moveEffect]
  | loadProgLen n => constructor <;> simp [moveEffect]
  | present b => constructor <;> rfl
  | signalEof => constructor <;> rfl
  | releaseReset => constructor <;> rfl
  | readTape a => constructor <;> rfl

/-- Settles O31: outside RUN the core's turn is idle, and a host move but RESET keeps the control
state and the tape. -/
theorem terminalStatesAreLeftOnlyByReset : Obligations.TerminalStatesAreLeftOnlyByReset := by
  intro s t hrun hs
  have idle : coreStep s.afterTurn = .next s.afterTurn := coreStep_idle (.inr hrun)
  have core_keeps (hc : s.nextIsCore = true) : t = s.afterTurn :=
    (Host.Outcome.next.inj (idle.symm.trans (step_of_core hc ▸ hs))).symm
  refine ⟨by simp [coreEnabled, hrun], core_keeps, fun hn => ?_⟩
  rcases step_next hs with ⟨hc, -⟩ | ⟨m, rest, hm, -, rfl⟩
  · obtain rfl := core_keeps hc
    exact ⟨rfl, rfl, rfl, rfl⟩
  · have kept := moveEffect_sameControl (s := s.afterTurn) (ne_assertReset_of_nextIsReset hm hn)
    exact ⟨kept.status, kept.ip, kept.cursor, kept.tape⟩

/-! ### The parameters and the program -/

section Program

variable {s t : State} {m : HostMove}

theorem CoreEffect.keeps_program (h : CoreEffect s t) :
    t.cfg = s.cfg ∧ t.rom = s.rom ∧ t.progLen = s.progLen := by
  cases h <;> exact ⟨rfl, rfl, rfl⟩

theorem coreStep_keeps_program (h : coreStep s = .next t) :
    t.cfg = s.cfg ∧ t.rom = s.rom ∧ t.progLen = s.progLen := by
  rcases coreStep_effect h with rfl | ⟨-, -, -, rfl⟩ | ⟨-, he⟩
  · exact ⟨rfl, rfl, rfl⟩
  · exact ⟨rfl, rfl, rfl⟩
  · exact he.keeps_program

theorem moveEffect_cfg : (moveEffect m s).cfg = s.cfg := by
  cases m <;> simp [moveEffect]

/-- The two load ports have no effect while `rst` = 0 (R281). -/
theorem moveEffect_keeps_program (hr : s.rst = false) :
    (moveEffect m s).rom = s.rom ∧ (moveEffect m s).progLen = s.progLen := by
  cases m with
  | loadWord a w => simp [moveEffect, romPort, hr]
  | loadProgLen n => simp [moveEffect, progLenPort, hr]
  | present b => exact ⟨rfl, rfl⟩
  | signalEof => exact ⟨rfl, rfl⟩
  | assertReset => exact ⟨rfl, rfl⟩
  | releaseReset => exact ⟨rfl, rfl⟩
  | readTape a => exact ⟨rfl, rfl⟩

end Program

/-- Settles O38: no effect of the core writes the program, and the host's two load ports are shut while
`rst` = 0. -/
theorem programIsImmutableDuringARun : Obligations.ProgramIsImmutableDuringARun := by
  intro s t hs
  rcases step_next hs with ⟨-, hc⟩ | ⟨m, rest, hm, -, rfl⟩
  · obtain ⟨hcfg, hprog⟩ := coreStep_keeps_program hc
    exact ⟨hcfg, fun _ => hprog⟩
  · refine ⟨moveEffect_cfg, fun h => ?_⟩
    have hr : s.rst = false := by simpa [nextIsCore_of_host hm] using h
    exact moveEffect_keeps_program (s := s.afterTurn) hr

/-! ### The input register -/

/-- `IN_VALID`, `IN_DATA` and `IN_EOF` are the same in two states. -/
structure State.SameInput (s t : State) : Prop where
  inValid : t.inValid = s.inValid
  inData : t.inData = s.inData
  inEof : t.inEof = s.inEof

/-- All that a step other than RESET can do to the input register: leave it, consume the waiting byte in a core
turn at a READ, take a byte presented, or take the end of input. -/
inductive InputStep (s t : State) : Prop
  | kept (h : s.SameInput t)
  | consumed (hc : s.nextIsCore = true) (hf : s.fetches)
    (hw : decode (Rom.read s.rom s.ip.toNat) = .instr .read)
    (hv : s.inValid = true) (hv' : t.inValid = false) (he : t.inEof = s.inEof)
  | presented (rest : List Turn) (hs : s.schedule = .host (.present t.inData) :: rest)
    (hr : s.rst = false) (hv : s.inValid = false) (he : s.inEof = false)
    (hv' : t.inValid = true) (he' : t.inEof = s.inEof)
  | ended (rest : List Turn) (hs : s.schedule = .host .signalEof :: rest)
    (hr : s.rst = false) (he' : t.inEof = true)
    (hv : t.inValid = s.inValid) (hd : t.inData = s.inData)

section Input

variable {s t : State}

theorem moveOr_sameInput (b : Bool) (target : Int) (c : Cause) :
    s.SameInput (moveOr b target c s) := by
  unfold moveOr; split <;> exact ⟨rfl, rfl, rfl⟩

theorem jumpMux_sameInput (dir : Direction) (v : Byte) (d : Nat) :
    s.SameInput (jumpMux dir v d s) := by
  unfold jumpMux; split <;> exact ⟨rfl, rfl, rfl⟩

/-- READ is the only instruction that writes the input register. -/
theorem exec_sameInput {i : Instr} (hi : i ≠ .read) (h : exec i s = .next t) : s.SameInput t := by
  cases i with
  | read => exact absurd rfl hi
  | inc n => obtain ⟨-, rfl⟩ := execInc_next.1 h; exact ⟨rfl, rfl, rfl⟩
  | dec n => obtain ⟨-, rfl⟩ := execDec_next.1 h; exact ⟨rfl, rfl, rfl⟩
  | zero => obtain ⟨-, rfl⟩ := execZero_next.1 h; exact ⟨rfl, rfl, rfl⟩
  | write => obtain ⟨-, rfl⟩ := execWrite_next.1 h; exact ⟨rfl, rfl, rfl⟩
  | left n => obtain rfl := Host.Outcome.next.inj h; exact moveOr_sameInput ..
  | right n => obtain rfl := Host.Outcome.next.inj h; exact moveOr_sameInput ..
  | jmpf d => obtain ⟨-, rfl⟩ := execJmpf_next.1 h; exact jumpMux_sameInput ..
  | jmpb d => obtain ⟨-, rfl⟩ := execJmpb_next.1 h; exact jumpMux_sameInput ..

/-- A core turn leaves the input register or consumes the waiting byte at a READ. -/
theorem coreStep_input (h : coreStep s = .next t) :
    s.SameInput t ∨
    (s.fetches ∧ decode (fetchWord s) = .instr .read ∧ s.inValid = true ∧ t.inValid = false ∧
      t.inEof = s.inEof) := by
  rcases coreStep_next h with ⟨-, rfl⟩ | ⟨hr, hs, ⟨-, rfl⟩ | ⟨hp, -, ⟨-, -, rfl⟩ | ⟨i, hw, he⟩⟩⟩
  · exact .inl ⟨rfl, rfl, rfl⟩
  · exact .inl ⟨rfl, rfl, rfl⟩
  · exact .inl ⟨rfl, rfl, rfl⟩
  · by_cases hi : i = .read
    · subst hi
      rcases execRead_next.1 he with ⟨hv, -, rfl⟩ | ⟨-, -, rfl⟩ | ⟨-, -, rfl⟩
      · exact .inr ⟨⟨hr, hs, hp⟩, hw, hv, rfl, rfl⟩
      · exact .inl ⟨rfl, rfl, rfl⟩
      · exact .inl ⟨rfl, rfl, rfl⟩
    · exact .inl (exec_sameInput hi he)

theorem step_input (h : step s = .next t) (hn : s.nextIsReset = false) : InputStep s t := by
  rcases step_next h with ⟨hc, h⟩ | ⟨m, rest, hs, hen, rfl⟩
  · rcases coreStep_input h with ⟨hv, hd, he⟩ | ⟨hf, hw, hv, hv', he⟩
    · exact .kept ⟨hv, hd, he⟩
    · exact .consumed hc hf hw hv hv' he
  · cases m with
    | present b =>
      obtain ⟨⟨hr, hv⟩, he⟩ : (s.rst = false ∧ s.inValid = false) ∧ s.inEof = false := by
        simpa [moveEnabled, State.afterTurn] using hen
      exact .presented rest hs hr hv he rfl rfl
    | signalEof =>
      obtain ⟨hr, -⟩ : s.rst = false ∧ s.inEof = false := by
        simpa [moveEnabled, State.afterTurn] using hen
      exact .ended rest hs hr rfl rfl rfl
    | assertReset => exact absurd rfl (ne_assertReset_of_nextIsReset hs hn)
    | releaseReset => exact .kept ⟨rfl, rfl, rfl⟩
    | readTape a => exact .kept ⟨rfl, rfl, rfl⟩
    | loadWord a w => exact .kept ⟨romPort_inValid .., romPort_inData .., romPort_inEof ..⟩
    | loadProgLen n =>
      exact .kept ⟨progLenPort_inValid .., progLenPort_inData .., progLenPort_inEof ..⟩

end Input

/-- Settles O39: each clause is read off the four things a step that is not RESET can do to the input
register. -/
theorem inputRegisterIsWrittenOnlyAsStated : Obligations.InputRegisterIsWrittenOnlyAsStated := by
  intro s t hs hn
  cases step_input hs hn with
  | kept h => simp +contextual [h.inValid, h.inData, h.inEof]
  | consumed hc hf hw hv hv' he =>
    obtain ⟨hr, hrun, hp⟩ := hf
    simp +contextual [State.fetches, hc, hr, hrun, hp, hw, hv, hv', he]
  | presented rest hs hr hv he hv' he' => simp [hs, hr, hv, he, hv', he']
  | ended rest hs hr he' hv hd => simp +contextual [hs, hr, he', hv, hd]

/-- Settles O43: the values stand in the definition, and every cell of the empty tape reads 0. -/
theorem resetStateHasTheStatedValues : Obligations.ResetStateHasTheStatedValues :=
  ⟨rfl, rfl, Memory.read_nil, rfl, rfl, rfl, rfl, rfl, rfl, rfl⟩

end Sys2Proof.Machine

/-! The spaces and the host as the memory chapter states them (20_memory.md, R62 to R76): the byte stream of a ROM
image, what each instruction may change and read, how the two streams grow, and the moves PRESENT and SIGNAL_EOF. -/

namespace Sys2Proof

/-! ### The byte stream of a ROM image -/

section Image

variable (w : Word) (ws : List Word)

theorem imageBytes_cons : imageBytes (w :: ws) = wordBytes w ++ imageBytes ws := rfl

theorem length_imageBytes : (imageBytes ws).length = 4 * ws.length := by
  induction ws with
  | nil => rfl
  | cons w ws ih =>
    rw [imageBytes_cons, List.length_append, ih, List.length_cons]
    simp only [wordBytes, List.length_cons, List.length_nil]
    omega

theorem wordBytes_getElem? {j : Nat} (hj : j < 4) :
    (wordBytes w)[j]? = some (w.extractLsb' (8 * j) 8) := by
  interval_cases j <;> rfl

theorem imageBytes_getElem? {j : Nat} (hj : j < 4) (k : Nat) (hk : k < ws.length) :
    (imageBytes ws)[4 * k + j]? = some (ws[k].extractLsb' (8 * j) 8) := by
  induction ws generalizing k with
  | nil => cases hk
  | cons w ws ih =>
    have hlen : (wordBytes w).length = 4 := rfl
    rw [imageBytes_cons]
    cases k with
    | zero =>
      rw [Nat.mul_zero, Nat.zero_add, List.getElem?_append_left (by omega)]
      exact wordBytes_getElem? w hj
    | succ k =>
      rw [List.getElem?_append_right (by omega),
        show 4 * (k + 1) + j - (wordBytes w).length = 4 * k + j by omega]
      exact ih k (Nat.lt_of_succ_lt_succ hk)

/-- The four bytes of a word, put together again, are the word. -/
theorem wordOfBytes_extract : wordOfBytes (w.extractLsb' 0 8) (w.extractLsb' 8 8)
    (w.extractLsb' 16 8) (w.extractLsb' 24 8) = w := by
  have join (k n : Nat) : w.extractLsb' (k + 8) n ++ w.extractLsb' k 8 = w.extractLsb' k (n + 8) :=
    BitVec.extractLsb'_append_extractLsb'_eq_extractLsb' rfl
  rw [wordOfBytes, join 16 8, join 8 16, join 0 24]
  exact BitVec.extractLsb'_eq_self

theorem imageOfBytes_imageBytes : imageOfBytes (imageBytes ws) = some ws := by
  induction ws with
  | nil => rfl
  | cons w ws ih =>
    simp [imageBytes_cons, wordBytes, imageOfBytes, ih, wordOfBytes_extract]

end Image

/-- Settles O7, by induction on the words: the stream is the four bytes of the first word and then the stream of
the rest. -/
theorem imageBytesAreLittleEndian : Obligations.ImageBytesAreLittleEndian := fun ws =>
  ⟨length_imageBytes ws, fun k _ hk hj => imageBytes_getElem? ws hj k hk, imageOfBytes_imageBytes ws⟩

end Sys2Proof

namespace Sys2Proof.Machine

/-! ### What each instruction may change -/

section Frame

variable {s t : State}

/-- The only cell that an effect of the core writes is the current one. -/
theorem CoreEffect.sameCellsBut (h : CoreEffect s t) : sameCellsBut s.cursor.toNat s t := by
  intro b hb
  cases h with
  | store v => exact Memory.read_write_ne _ _ _ v hb
  | consume => exact Memory.read_write_ne _ _ _ s.inData hb
  | moveLeft n | moveRight n | emitCell | jump d | fallThrough | raised c | hold => rfl

/-- A cursor move writes `CURSOR` and `IP`, or the fault registers. -/
theorem moveOr_frame (inBounds : Bool) (target : Int) (c : Cause) (h : moveOr inBounds target c s = t) :
    t = { s with cursor := t.cursor, ip := t.ip, status := t.status, cause := t.cause,
                 faultIp := t.faultIp } := by
  subst h; unfold moveOr; split <;> rfl

/-- A jump writes `IP`, taken or not. -/
theorem jumpMux_frame {dir : Direction} {v : Byte} {d : Nat} (h : jumpMux dir v d s = t) :
    t = { s with ip := t.ip } := by
  subst h
  rcases jumpMux_cases (s := s) (n := d) dir v with e | e <;> rw [e] <;> rfl

end Frame

/-- Settles O36: the cells by the effects of the core, the other fields instruction by instruction. -/
theorem eachInstructionKeepsItsFrame : Obligations.EachInstructionKeepsItsFrame := by
  intro i s t h
  refine ⟨(exec_effect h).sameCellsBut, ?_⟩
  cases i with
  | inc n => obtain ⟨-, rfl⟩ := execInc_next.1 h; rfl
  | dec n => obtain ⟨-, rfl⟩ := execDec_next.1 h; rfl
  | zero => obtain ⟨-, rfl⟩ := execZero_next.1 h; rfl
  | left n => exact moveOr_frame _ _ _ (Host.Outcome.next.inj h)
  | right n => exact moveOr_frame _ _ _ (Host.Outcome.next.inj h)
  | read =>
    rcases execRead_next.1 h with ⟨hv, -, rfl⟩ | ⟨hv, -, rfl⟩ | ⟨hv, -, rfl⟩
    · exact ⟨fun _ => rfl, fun hv' => absurd (hv.symm.trans hv') (by decide)⟩
    · exact ⟨fun hv' => absurd (hv.symm.trans hv') (by decide), fun _ => rfl⟩
    · exact ⟨fun hv' => absurd (hv.symm.trans hv') (by decide), fun _ => rfl⟩
  | write => obtain ⟨-, rfl⟩ := execWrite_next.1 h; rfl
  | jmpf d => exact jumpMux_frame (execJmpf_next.1 h).2
  | jmpb d => exact jumpMux_frame (execJmpb_next.1 h).2

/-! ### Only the current cell is read -/

/-- A state and the same state on another tape with the same cell at an index. -/
inductive State.AgreesAt (a : Nat) (s : State) : State → Prop
  | mk (m : Memory) (h : Memory.read m a = Memory.read s.tape a) : AgreesAt a s { s with tape := m }

/-- Where the first outcome is a next state, so is the second, and the two states agree at an index. -/
def AnswersAgree (a : Nat) (o o' : Host.Outcome State Fault Refusal) : Prop :=
  ∀ t, o = .next t → ∃ t', o' = .next t' ∧ t.AgreesAt a t'

namespace State.AgreesAt

variable {a : Nat} {s s' : State} (h : s.AgreesAt a s')
include h

/-- An operation that keeps the tape and does not look at it keeps the agreement. -/
theorem map (f : State → State) (hf : ∀ m, f { s with tape := m } = { f s with tape := m })
    (htape : (f s).tape = s.tape) : (f s).AgreesAt a (f s') := by
  obtain ⟨m, hm⟩ := h
  rw [hf m]
  exact ⟨m, by rwa [htape]⟩

theorem advance : (Machine.advance s).AgreesAt a (Machine.advance s') :=
  h.map Machine.advance (fun _ => rfl) rfl

theorem next : AnswersAgree a (.next s) (.next s') := by
  rintro _ ⟨⟩
  exact ⟨s', rfl, h⟩

end State.AgreesAt

section Agreement

variable {s s' : State} (h : s.AgreesAt s.cursor.toNat s')
include h

/-- The same value written to the current cell of both. -/
theorem agreesAt_tapeWrite (v : Byte) :
    (tapeWrite v s).AgreesAt s.cursor.toNat (tapeWrite v s') := by
  obtain ⟨m, -⟩ := h
  exact ⟨Memory.write m s.cursor.toNat v, by simp⟩

/-- An access to the current cell goes on with the same value in both, or in neither. -/
theorem answersAgree_onCell {k k' : Byte → Host.Outcome State Fault Refusal}
    (hk : ∀ v, AnswersAgree s.cursor.toNat (k v) (k' v)) :
    AnswersAgree s.cursor.toNat (onCell s k) (onCell s' k') := by
  obtain ⟨m, hm⟩ := h
  intro t ht
  obtain ⟨hc, ht⟩ := onCell_next.1 ht
  obtain ⟨t', ht', hag⟩ := hk _ t ht
  refine ⟨t', onCell_next.2 ⟨hc, ?_⟩, hag⟩
  rw [tapeRead, hm]
  exact ht'

theorem answersAgree_store (f : Byte → Byte) : AnswersAgree s.cursor.toNat
    (onCell s fun v => .next (advance (tapeWrite (f v) s)))
    (onCell s' fun v => .next (advance (tapeWrite (f v) s'))) :=
  answersAgree_onCell h fun v => (agreesAt_tapeWrite h (f v)).advance.next

theorem answersAgree_jump (dir : Direction) (d : Nat) : AnswersAgree s.cursor.toNat
    (onCell s fun v => .next (jumpMux dir v d s)) (onCell s' fun v => .next (jumpMux dir v d s')) :=
  answersAgree_onCell h fun v => State.AgreesAt.next <| h.map (jumpMux dir v d)
    (fun _ => by unfold jumpMux; split <;> rfl) (by unfold jumpMux; split <;> rfl)

/-- The bounds check and the target of a move depend on `CURSOR` and `TAPE_LEN` only. -/
theorem answersAgree_move (inBounds : State → Bool) (target : State → Int) (c : Cause)
    (hb : ∀ m, inBounds { s with tape := m } = inBounds s)
    (ht : ∀ m, target { s with tape := m } = target s) :
    AnswersAgree s.cursor.toNat (.next (moveOr (inBounds s) (target s) c s))
      (.next (moveOr (inBounds s') (target s') c s')) :=
  State.AgreesAt.next <| h.map (fun u => moveOr (inBounds u) (target u) c u)
    (fun m => by simp only [hb, ht, moveOr]; split <;> rfl) (by simp only [moveOr]; split <;> rfl)

theorem answersAgree_read : AnswersAgree s.cursor.toNat (execRead s) (execRead s') := by
  have hconsume : AnswersAgree s.cursor.toNat
      (onCell s fun _ => .next (advance (consumeInput (tapeWrite s.inData s))))
      (onCell s' fun _ => .next (advance (consumeInput (tapeWrite s.inData s')))) :=
    answersAgree_onCell h fun _ =>
      ((agreesAt_tapeWrite h s.inData).map consumeInput (fun _ => rfl) rfl).advance.next
  have hraise := (h.map (raiseFault .inputExhausted) (fun _ => rfl) rfl).next
  have hhold := h.next
  obtain ⟨m, -⟩ := h
  unfold execRead
  dsimp only
  split
  · exact hconsume
  · split
    · exact hraise
    · exact hhold

/-- On two tapes with the same current cell an instruction answers the same but for the other cells. -/
theorem exec_answersAgree (i : Instr) : AnswersAgree s.cursor.toNat (exec i s) (exec i s') := by
  cases i with
  | inc n => exact answersAgree_store h (add8 · n)
  | dec n => exact answersAgree_store h (sub8 · n)
  | zero => exact answersAgree_store h fun _ => 0
  | left n =>
    exact answersAgree_move h (leftInBounds · n) (fun u => leftTarget u.cursor n) _ (fun _ => rfl)
      fun _ => rfl
  | right n =>
    exact answersAgree_move h (rightInBounds · n) (fun u => rightTarget u.cursor n) _ (fun _ => rfl)
      fun _ => rfl
  | read => exact answersAgree_read h
  | write =>
    exact answersAgree_onCell h fun v => (h.map (emit v) (fun _ => rfl) rfl).advance.next
  | jmpf d => exact answersAgree_jump h .forward d
  | jmpb d => exact answersAgree_jump h .backward d

end Agreement

/-- Settles O37: the answers agree in both directions, because the agreement of the two tapes is symmetric. -/
theorem onlyTheCurrentCellIsRead : Obligations.OnlyTheCurrentCellIsRead := by
  intro i s m hm
  refine ⟨fun t ht => ?_, fun hnone t' ht' => ?_⟩
  · obtain ⟨_, ht', m', hm'⟩ := exec_answersAgree (.mk m hm) i t ht
    exact ⟨_, ht', rfl, hm'⟩
  · obtain ⟨t, ht, -⟩ :=
      exec_answersAgree (s := { s with tape := m }) (.mk s.tape hm.symm) i t' ht'
    exact hnone t ht

/-! ### The two streams -/

section Streams

variable {i : Instr} {s t : State}

/-- Only the frame of WRITE names the output stream. -/
theorem exec_outStream (hi : i ≠ .write) (h : exec i s = .next t) : t.outStream = s.outStream := by
  have hf := (eachInstructionKeepsItsFrame i s t h).2
  cases i with
  | write => exact absurd rfl hi
  | read =>
    cases hv : s.inValid with
    | true => exact (congrArg State.outStream (hf.1 hv) :)
    | false => exact (congrArg State.outStream (hf.2 hv) :)
  | inc n | dec n | zero | left n | right n | jmpf d | jmpb d => exact (congrArg State.outStream hf :)

/-- Only the frame of READ names the input consumed. -/
theorem exec_inConsumed (hi : i ≠ .read) (h : exec i s = .next t) : t.inConsumed = s.inConsumed := by
  have hf := (eachInstructionKeepsItsFrame i s t h).2
  cases i with
  | read => exact absurd rfl hi
  | inc n | dec n | zero | left n | right n | write | jmpf d | jmpb d =>
    exact (congrArg State.inConsumed hf :)

/-- A core turn keeps both streams, or runs the instruction at `IP`. -/
theorem coreStep_streams (h : coreStep s = .next t) :
    (t.outStream = s.outStream ∧ t.inConsumed = s.inConsumed) ∨
    (s.fetches ∧ ∃ i, decode (fetchWord s) = .instr i ∧ exec i s = .next t) := by
  rcases coreStep_next h with ⟨-, rfl⟩ | ⟨hr, hs, ⟨-, rfl⟩ | ⟨hp, -, ⟨-, -, rfl⟩ | hw⟩⟩
  · exact .inl ⟨rfl, rfl⟩
  · exact .inl ⟨rfl, rfl⟩
  · exact .inl ⟨rfl, rfl⟩
  · exact .inr ⟨⟨hr, hs, hp⟩, hw⟩

theorem coreStep_outStream (h : coreStep s = .next t) :
    t.outStream = s.outStream ∨
    (s.fetches ∧ decode (fetchWord s) = .instr .write ∧ t.outStream = s.outStream ++ [tapeRead s]) := by
  rcases coreStep_streams h with ⟨ho, -⟩ | ⟨hf, i, hw, he⟩
  · exact .inl ho
  · by_cases hi : i = .write
    · subst hi
      obtain ⟨-, rfl⟩ := execWrite_next.1 he
      exact .inr ⟨hf, hw, rfl⟩
    · exact .inl (exec_outStream hi he)

theorem coreStep_inConsumed (h : coreStep s = .next t) :
    t.inConsumed = s.inConsumed ∨
    (s.fetches ∧ decode (fetchWord s) = .instr .read ∧ s.inValid = true ∧
      t.inConsumed = s.inConsumed ++ [s.inData] ∧ t.inValid = false) := by
  rcases coreStep_streams h with ⟨-, hc⟩ | ⟨hf, i, hw, he⟩
  · exact .inl hc
  · by_cases hi : i = .read
    · subst hi
      rcases execRead_next.1 he with ⟨hv, -, rfl⟩ | ⟨-, -, rfl⟩ | ⟨-, -, rfl⟩
      · exact .inr ⟨hf, hw, hv, rfl, rfl⟩
      · exact .inl rfl
      · exact .inl rfl
    · exact .inl (exec_inConsumed hi he)

end Streams

/-- Settles O20: in a core turn only WRITE and READ touch a stream, and no host move but RESET does. -/
theorem streamsGrowOnlyByWriteAndRead : Obligations.StreamsGrowOnlyByWriteAndRead := by
  intro s t hs hn
  rcases step_next hs with ⟨hc, h⟩ | ⟨m, rest, hm, -, rfl⟩
  · exact ⟨(coreStep_outStream h).imp_right fun hw => ⟨hc, hw⟩,
      (coreStep_inConsumed h).imp_right fun hr => ⟨hc, hr⟩⟩
  · have kept := moveEffect_sameControl (s := s.afterTurn) (ne_assertReset_of_nextIsReset hm hn)
    exact ⟨.inl kept.outStream, .inl kept.inConsumed⟩

/-! ### PRESENT and SIGNAL_EOF -/

section HostTurn

variable {s t : State} {m : HostMove} {rest : List Turn}

@[simp] theorem moveEnabled_present {b : Byte} : moveEnabled (.present b) s = true ↔
    s.rst = false ∧ s.inValid = false ∧ s.inEof = false := by
  simp [moveEnabled, and_assoc]

@[simp] theorem moveEnabled_signalEof :
    moveEnabled .signalEof s = true ↔ s.rst = false ∧ s.inEof = false := by
  simp [moveEnabled]

/-- Whether the host has a move does not depend on the schedule. -/
theorem moveEnabled_setSchedule : moveEnabled m (setSchedule rest s) = moveEnabled m s := by
  cases m <;> rfl

theorem afterTurn_of_schedule {turn : Turn} (hs : s.schedule = turn :: rest) :
    s.afterTurn = setSchedule rest s := by
  simp [State.afterTurn, hs]

theorem step_of_moveEnabled (hs : s.schedule = .host m :: rest) (hen : moveEnabled m s = true) :
    step s = .next (moveEffect m (setSchedule rest s)) := by
  rw [step_of_host hs, afterTurn_of_schedule hs]
  exact hostStep_next.2 ⟨moveEnabled_setSchedule.trans hen, rfl⟩

theorem step_ne_next_of_not_moveEnabled (hs : s.schedule = .host m :: rest)
    (hen : ¬ moveEnabled m s = true) : step s ≠ .next t := by
  rw [step_of_host hs]
  exact fun h => hen (moveEnabled_setSchedule.symm.trans (hostStep_next.1 h).1)

end HostTurn

/-- Settles O45: PRESENT is enabled exactly there, and a move that is not enabled has no next state. -/
theorem presentSetsTheInputRegister : Obligations.PresentSetsTheInputRegister :=
  fun _ _ _ hs => ⟨fun hen => step_of_moveEnabled hs (moveEnabled_present.2 hen),
    fun hen _ => step_ne_next_of_not_moveEnabled hs (mt moveEnabled_present.1 hen)⟩

section Runs

variable {s t : State}

/-- A run that ends in a next state after one step more has a next state after that step. -/
theorem run_succ_next {k : Nat} (h : Host.Core.run core (k + 1) s = .next t) :
    ∃ u, step s = .next u ∧ Host.Core.run core k u = .next t := by
  cases hs : step s with
  | next u => exact ⟨u, rfl, run_succ k hs ▸ h⟩
  | fault r => simp [Host.Core.run, core, hs] at h
  | refused r => simp [Host.Core.run, core, hs] at h

/-- What every step but RESET keeps, a run without RESET keeps. -/
theorem run_keeps {P : State → Prop}
    (hstep : ∀ s t, step s = .next t → s.nextIsReset = false → P s → P t) (k : Nat)
    (hn : s.noResetWithin k) (h : Host.Core.run core k s = .next t) (hp : P s) : P t := by
  induction k generalizing s with
  | zero => exact run_zero_next.1 h ▸ hp
  | succ k ih =>
    obtain ⟨u, hs, hu⟩ := run_succ_next h
    obtain ⟨hfirst, hrest⟩ := noResetWithin_succ hn hs
    exact ih hrest hu (hstep s u hs hfirst hp)

theorem run_keeps_inEof {k : Nat} (hn : s.noResetWithin k) (h : Host.Core.run core k s = .next t)
    (he : s.inEof = true) : t.inEof = true :=
  run_keeps (P := fun u => u.inEof = true)
    (fun s t hs hr => (inputRegisterIsWrittenOnlyAsStated s t hs hr).1) k hn h he

/-- Once `IN_EOF` = 1 the host has neither move (R76). -/
theorem moveEnabled_of_inEof (he : t.inEof = true) :
    (∀ b, moveEnabled (.present b) t = false) ∧ moveEnabled .signalEof t = false := by
  simp [moveEnabled, he]

end Runs

/-- Settles O46: the move as for PRESENT, and the end of input along a run because every step but RESET keeps
it. -/
theorem signalEofIsStickyUntilReset : Obligations.SignalEofIsStickyUntilReset :=
  ⟨fun _ _ hs => ⟨fun hen => step_of_moveEnabled hs (moveEnabled_signalEof.2 hen),
      fun hen _ => step_ne_next_of_not_moveEnabled hs (mt moveEnabled_signalEof.1 hen)⟩,
    fun _ _ _ he hn h =>
      have he' := run_keeps_inEof hn h he
      ⟨he', moveEnabled_of_inEof he'⟩⟩

end Sys2Proof.Machine

/-! The encoding of instructions and the ROM-image builder (30_encoding.md, R90 to R122): that decoder and
encoder agree, which words are illegal, that counted deltas add up, and what the builder makes or refuses. -/

namespace Sys2Proof

/-! ### The decoder reads the two fields that the encoder packs -/

section Fields

variable {w : Word} {i : Instr}

/-- The converse of `decode_instr_cases`: a word with an instruction's fields decodes to it. -/
theorem decode_of_fields (hop : bits w 31 28 = i.opcode) (hn : bits w 27 0 = i.operand)
    (hd : i.opcode ≤ 2 → bits w 27 8 = 0) : decode w = .instr i := by
  have delta (h : i.opcode ≤ 2) : bits w 7 0 = i.operand :=
    (bits_operand_of_deltaField w (hd h)).symm.trans hn
  unfold decode
  rw [hop]
  cases i with
  | inc n | dec n =>
    exact decodeD8_instr.2 ⟨hd (by simp [Instr.opcode]), congrArg _ (delta (by simp [Instr.opcode]))⟩
  | left n | right n | jmpf n | jmpb n => exact decodeWhole_instr.2 (congrArg _ hn)
  | zero | read | write => exact decodeN_instr.2 ⟨hn, rfl⟩

/-- A word decodes to an instruction exactly when it has its opcode, its operand, and nothing between the two in
the delta's format. -/
theorem decode_instr_iff : decode w = .instr i ↔
    bits w 31 28 = i.opcode ∧ bits w 27 0 = i.operand ∧ (i.opcode ≤ 2 → bits w 27 8 = 0) := by
  refine ⟨fun h => ?_, fun ⟨hop, hn, hd⟩ => decode_of_fields hop hn hd⟩
  obtain ⟨hop, hn, hd⟩ := decode_instr_cases h
  exact ⟨hop, hn, fun hle => (hd hle).1⟩

theorem opcode_lt (i : Instr) : i.opcode < 16 := by cases i <;> simp [Instr.opcode]

/-- A well-formed operand fits the field of its format (R91). -/
theorem operand_fits (h : i.wellFormed = true) :
    i.operand < 2 ^ 28 ∧ (i.opcode ≤ 2 → i.operand < 2 ^ 8) := by
  cases i with
  | inc n => exact (Laws.FieldsFit.inc n h).2.2
  | dec n => exact (Laws.FieldsFit.dec n h).2.2
  | left n => exact (Laws.FieldsFit.left n h).2.2
  | right n => exact (Laws.FieldsFit.right n h).2.2
  | zero => exact (Laws.FieldsFit.zero h).2.2
  | read => exact (Laws.FieldsFit.read h).2.2
  | write => exact (Laws.FieldsFit.write h).2.2
  | jmpf d => exact (Laws.FieldsFit.jmpf d h).2.2
  | jmpb d => exact (Laws.FieldsFit.jmpb d h).2.2

theorem decode_encode (h : i.wellFormed = true) : decode (encode i) = .instr i := by
  obtain ⟨hn, hd⟩ := operand_fits h
  refine decode_of_fields (bits_packWord_opcode _ _ (opcode_lt i)) ?_ fun hle => ?_
  · rw [encode, bits_packWord_operand _ _ (opcode_lt i), Nat.mod_eq_of_lt hn]
  · rw [encode, bits_packWord_deltaField _ _ (opcode_lt i), Nat.mod_eq_of_lt hn,
      Nat.div_eq_of_lt (hd hle)]

theorem encode_of_decode (h : decode w = .instr i) : encode i = w := by
  obtain ⟨hop, hn, -⟩ := decode_instr_iff.1 h
  rw [encode, ← hop, ← hn, packWord_bits]

end Fields

/-- Settles O1: the decoder finds in the packed word the opcode and the operand, which fits its field. -/
theorem decodeReadsBackEveryEncoding : Obligations.DecodeReadsBackEveryEncoding :=
  fun _ => decode_encode

/-- Settles O2: a word is the pack of its two fields, and the decoder reads both. -/
theorem encodeRebuildsEveryDecodedWord : Obligations.EncodeRebuildsEveryDecodedWord :=
  fun _ _ h => ⟨decode_wellFormed h, encode_of_decode h⟩

/-! ### The opcode map as masks and matches -/

section Rows

variable {w m : Word} {op : Nat}

/-- A mask of all bits from `k` up compares the part of the word above bit `k`. -/
theorem and_highMask_eq_iff (k : Nat) : w &&& BitVec.allOnes 32 <<< k = m ↔
    w.toNat / 2 ^ k * 2 ^ k = m.toNat := by
  rw [← BitVec.shiftLeft_ushiftRight, ← BitVec.toNat_inj, BitVec.toNat_shiftLeft,
    BitVec.toNat_ushiftRight, Nat.shiftRight_eq_div_pow, Nat.shiftLeft_eq,
    Nat.mod_eq_of_lt ((Nat.div_mul_le_self _ _).trans_lt w.isLt)]

/-- The mask of M28 and J28 compares the opcode. -/
theorem and_wholeMask_eq_iff (hm : m.toNat = op * 2 ^ 28) :
    w &&& 0xF0000000#32 = m ↔ bits w 31 28 = op := by
  have := w.isLt
  rw [show 0xF0000000#32 = BitVec.allOnes 32 <<< 28 from rfl, and_highMask_eq_iff, hm]
  simp only [bits]
  omega

/-- The mask of D8 compares the opcode, and `w[27:8]` with 0. -/
theorem and_deltaMask_eq_iff (hm : m.toNat = op * 2 ^ 28) :
    w &&& 0xFFFFFF00#32 = m ↔ bits w 31 28 = op ∧ bits w 27 8 = 0 := by
  have := w.isLt
  rw [show 0xFFFFFF00#32 = BitVec.allOnes 32 <<< 8 from rfl, and_highMask_eq_iff, hm]
  simp only [bits]
  omega

/-- The mask of N compares the opcode, and `w[27:0]` with 0. -/
theorem and_fullMask_eq_iff (hm : m.toNat = op * 2 ^ 28) :
    w &&& 0xFFFFFFFF#32 = m ↔ bits w 31 28 = op ∧ bits w 27 0 = 0 := by
  have := w.isLt
  rw [show 0xFFFFFFFF#32 = BitVec.allOnes 32 <<< 0 from rfl, and_highMask_eq_iff, hm]
  simp only [bits]
  omega

theorem match_inc_iff : w &&& 0xFFFFFF00#32 = 0x10000000#32 ↔ ∃ n, decode w = .instr (.inc n) :=
  (and_deltaMask_eq_iff (op := 1) rfl).trans (by simp [decode_instr_iff, Instr.opcode, Instr.operand])

theorem match_dec_iff : w &&& 0xFFFFFF00#32 = 0x20000000#32 ↔ ∃ n, decode w = .instr (.dec n) :=
  (and_deltaMask_eq_iff (op := 2) rfl).trans (by simp [decode_instr_iff, Instr.opcode, Instr.operand])

theorem match_left_iff : w &&& 0xF0000000#32 = 0x30000000#32 ↔ ∃ n, decode w = .instr (.left n) :=
  (and_wholeMask_eq_iff (op := 3) rfl).trans (by simp [decode_instr_iff, Instr.opcode, Instr.operand])

theorem match_right_iff : w &&& 0xF0000000#32 = 0x40000000#32 ↔ ∃ n, decode w = .instr (.right n) :=
  (and_wholeMask_eq_iff (op := 4) rfl).trans (by simp [decode_instr_iff, Instr.opcode, Instr.operand])

theorem match_zero_iff : w &&& 0xFFFFFFFF#32 = 0x50000000#32 ↔ decode w = .instr .zero :=
  (and_fullMask_eq_iff (op := 5) rfl).trans (by simp [decode_instr_iff, Instr.opcode, Instr.operand])

theorem match_read_iff : w &&& 0xFFFFFFFF#32 = 0x60000000#32 ↔ decode w = .instr .read :=
  (and_fullMask_eq_iff (op := 6) rfl).trans (by simp [decode_instr_iff, Instr.opcode, Instr.operand])

theorem match_write_iff : w &&& 0xFFFFFFFF#32 = 0x70000000#32 ↔ decode w = .instr .write :=
  (and_fullMask_eq_iff (op := 7) rfl).trans (by simp [decode_instr_iff, Instr.opcode, Instr.operand])

theorem match_jmpf_iff : w &&& 0xF0000000#32 = 0x80000000#32 ↔ ∃ d, decode w = .instr (.jmpf d) :=
  (and_wholeMask_eq_iff (op := 8) rfl).trans (by simp [decode_instr_iff, Instr.opcode, Instr.operand])

theorem match_jmpb_iff : w &&& 0xF0000000#32 = 0x90000000#32 ↔ ∃ d, decode w = .instr (.jmpb d) :=
  (and_wholeMask_eq_iff (op := 9) rfl).trans (by simp [decode_instr_iff, Instr.opcode, Instr.operand])

theorem exists_instr_iff {P : Instr → Prop} : (∃ i, P i) ↔
    (∃ n, P (.inc n)) ∨ (∃ n, P (.dec n)) ∨ (∃ n, P (.left n)) ∨ (∃ n, P (.right n)) ∨
    P .zero ∨ P .read ∨ P .write ∨ (∃ d, P (.jmpf d)) ∨ ∃ d, P (.jmpb d) := by
  constructor
  · rintro ⟨i, h⟩
    cases i <;> grind
  · rintro (⟨n, h⟩ | ⟨n, h⟩ | ⟨n, h⟩ | ⟨n, h⟩ | h | h | h | ⟨d, h⟩ | ⟨d, h⟩)
    all_goals exact ⟨_, h⟩

/-- Some row matches a word exactly when the word decodes. -/
theorem exists_row_iff : (∃ r ∈ opcodeRows, w &&& r.1 = r.2) ↔ ∃ i, decode w = .instr i := by
  rw [exists_instr_iff, ← match_inc_iff, ← match_dec_iff, ← match_left_iff, ← match_right_iff,
    ← match_zero_iff, ← match_read_iff, ← match_write_iff, ← match_jmpf_iff, ← match_jmpb_iff]
  simp [opcodeRows]

/-- Every mask covers the opcode, so that a word has the opcode of a row that matches it. -/
theorem opcode_of_match {r : Word × Word} (hr : r ∈ opcodeRows) (h : w &&& r.1 = r.2) :
    w.extractLsb' 28 4 = r.2.extractLsb' 28 4 := by
  have hmask : ∀ r ∈ opcodeRows, r.1.extractLsb' 28 4 = BitVec.allOnes 4 := by
    simp [opcodeRows]
  rw [← h, BitVec.extractLsb'_and, hmask r hr, BitVec.and_allOnes]

/-- The rows differ in their opcodes. -/
theorem opcodeRows_pairwise :
    opcodeRows.Pairwise fun r r' => r.2.extractLsb' 28 4 ≠ r'.2.extractLsb' 28 4 := by
  decide

theorem mem_matchingRows {r : Word × Word} :
    r ∈ matchingRows w ↔ r ∈ opcodeRows ∧ w &&& r.1 = r.2 := by
  simp [matchingRows]

theorem length_matchingRows_le : (matchingRows w).length ≤ 1 := by
  have hpair : (matchingRows w).Pairwise _ := opcodeRows_pairwise.filter _
  have hop : ∀ r ∈ matchingRows w, w.extractLsb' 28 4 = r.2.extractLsb' 28 4 := fun r hr =>
    have ⟨hr, h⟩ := mem_matchingRows.1 hr
    opcode_of_match hr h
  match matchingRows w, hpair, hop with
  | [], _, _ => simp
  | [_], _, _ => simp
  | r :: r' :: _, hpair, hop =>
    have hne := (List.pairwise_cons.1 hpair).1 r' (by simp)
    exact absurd ((hop r (by simp)).symm.trans (hop r' (by simp))) hne

theorem length_matchingRows_eq_one_iff :
    (matchingRows w).length = 1 ↔ ∃ i, decode w = .instr i := by
  have hle := length_matchingRows_le (w := w)
  calc (matchingRows w).length = 1
    _ ↔ 0 < (matchingRows w).length := by omega
    _ ↔ ∃ r ∈ opcodeRows, w &&& r.1 = r.2 := by simp [List.length_pos_iff_exists_mem, mem_matchingRows]
    _ ↔ ∃ i, decode w = .instr i := exists_row_iff

end Rows

/-- Settles O3: a row's mask compares the opcode and the bits that its format wants 0, which is what the decoder
tests; two rows differ in the opcode. -/
theorem opcodeMapIsMaskAndMatch : Obligations.OpcodeMapIsMaskAndMatch := fun _ =>
  ⟨match_inc_iff, match_dec_iff, match_left_iff, match_right_iff, match_zero_iff, match_read_iff,
    match_write_iff, match_jmpf_iff, match_jmpb_iff, length_matchingRows_le,
    length_matchingRows_eq_one_iff⟩

/-! ### Illegal words -/

section Illegal

variable {w : Word}

/-- A word is illegal by its opcode, or by the bits that its format wants 0 (R96). -/
theorem decode_illegal_iff : (∃ why, decode w = .illegal why) ↔
    (bits w 31 28 = 0 ∨ 0xA ≤ bits w 31 28) ∨
    ((bits w 31 28 = 1 ∨ bits w 31 28 = 2) ∧ bits w 27 8 ≠ 0) ∨
    ((bits w 31 28 = 5 ∨ bits w 31 28 = 6 ∨ bits w 31 28 = 7) ∧ bits w 27 0 ≠ 0) := by
  have hdecodes : (∃ why, decode w = .illegal why) ↔ ¬ ∃ i, decode w = .instr i := by
    cases decode w <;> simp
  rw [hdecodes, exists_instr_iff]
  have := bits_lt w 31 28
  simp only [decode_instr_iff, Instr.opcode, Instr.operand, existsAndEq, true_and]
  omega

/-- A field of a word is not 0 as a number exactly when it is not 0 as an extract. -/
theorem extractLsb'_ne_zero_iff (k n : Nat) :
    w.extractLsb' k n ≠ 0 ↔ (w.extractLsb' k n).toNat ≠ 0 := by
  simp [← BitVec.toNat_inj]

end Illegal

/-- Settles O4: the decoder answers no instruction exactly in the three cases, and the core's step on an illegal
word is the fault and nothing else. -/
theorem illegalWordsAreExactlyThose : Obligations.IllegalWordsAreExactlyThose := by
  refine ⟨fun w => ?_, ⟨.opcode, by decide⟩, fun s why ⟨hr, hs, hp⟩ hd hw => ?_⟩
  · rw [extractLsb'_ne_zero_iff, extractLsb'_ne_zero_iff, ← bits_opcode_eq, ← bits_deltaField_eq,
      ← bits_operand_eq]
    exact decode_illegal_iff
  · exact Machine.coreStep_illegal hr hs hp (hp.trans_le hd) hw

/-! ### Sample words, and the direction bit -/

/-- Settles O5: the decoder runs on the nine words. -/
theorem sampleWordsDecodeAsWritten : Obligations.SampleWordsDecodeAsWritten := by
  unfold Obligations.SampleWordsDecodeAsWritten
  decide

theorem encode_opcode (i : Instr) : (encode i).extractLsb' 28 4 = BitVec.ofNat 4 i.opcode := by
  have hop := opcode_lt i
  apply BitVec.eq_of_toNat_eq
  rw [← bits_opcode_eq, encode, bits_packWord_opcode _ _ hop, BitVec.toNat_ofNat, Nat.mod_eq_of_lt hop]

/-- The bits from 28 up are bits of the opcode. -/
theorem encode_getLsbD {k : Nat} (hk : k < 4) (i : Instr) :
    (encode i).getLsbD (28 + k) = (BitVec.ofNat 4 i.opcode).getLsbD k := by
  simp [← encode_opcode, hk]

/-- Bits 31:29 are the upper three bits of the opcode. -/
theorem encode_extractLsb'_pair (i : Instr) :
    (encode i).extractLsb' 29 3 = (BitVec.ofNat 4 i.opcode).extractLsb' 1 3 := by
  rw [← encode_opcode]
  ext k hk
  simp [show 28 + (1 + k) = 29 + k by omega, show 1 + k < 4 by omega]

/-- Settles O6: the fields of the opcodes 0x8 and 0x9, whatever the destination. -/
theorem jumpDirectionIsBitTwentyEight : Obligations.JumpDirectionIsBitTwentyEight := fun d =>
  have bit28 (i : Instr) := encode_getLsbD (k := 0) (by decide) i
  ⟨encode_opcode (.jmpf d), encode_opcode (.jmpb d),
    (bit28 (.jmpf d)).trans (by simp [Instr.opcode]), (bit28 (.jmpb d)).trans (by simp [Instr.opcode]),
    (encode_extractLsb'_pair (.jmpf d)).trans (by simp [Instr.opcode]),
    (encode_extractLsb'_pair (.jmpb d)).trans (by simp [Instr.opcode])⟩

end Sys2Proof

namespace Sys2Proof.Machine

/-! ### Counted deltas -/

section Deltas

variable (v : Byte) (a b : Nat)

theorem add8_add8 : add8 (add8 v a) b = add8 v ((a + b) % 256) := by
  apply BitVec.eq_of_toNat_eq
  simp only [add8_toNat]
  omega

theorem sub8_sub8 : sub8 (sub8 v a) b = sub8 v ((a + b) % 256) := by
  apply BitVec.eq_of_toNat_eq
  have ha := sub8_toInt v a
  have hb := sub8_toInt (sub8 v a) b
  have hsum := sub8_toInt v ((a + b) % 256)
  omega

end Deltas

section Stores

variable (x y : Byte) (s : State)

/-- Of two writes to one cell the second one stands. -/
theorem Memory.read_write_write (m : Memory) (a b : Nat) :
    Memory.read (Memory.write (Memory.write m a x) a y) b = Memory.read (Memory.write m a y) b := by
  by_cases hb : b = a
  · rw [hb, Memory.read_write_self, Memory.read_write_self]
  · simp only [Memory.read_write_ne _ _ _ _ hb]

/-- The state after an opcode that stores a byte into the current cell. -/
def stored (x : Byte) (s : State) : State := advance (tapeWrite x s)

@[simp] theorem tapeRead_stored : tapeRead (stored x s) = x := Memory.read_write_self ..

/-- Two stores into the current cell leave what the second one alone leaves, but for `IP`. -/
theorem stored_stored :
    (∀ a, Memory.read (stored y (stored x s)).tape a = Memory.read (stored y s).tape a) ∧
    stored y (stored x s) =
      { stored y s with tape := (stored y (stored x s)).tape, ip := s.ip + 2 } := by
  refine ⟨Memory.read_write_write x y s.tape s.cursor.toNat, ?_⟩
  have hip : s.ip + 1 + 1 = s.ip + 2 := BitVec.add_assoc ..
  exact congrArg (fun p => { stored y (stored x s) with ip := p }) hip

variable {s : State} (hc : s.cursor.toNat < s.cfg.tapeLen) (n : Nat)
include hc

theorem execInc_eq_stored : exec (.inc n) s = .next (stored (add8 (tapeRead s) n) s) :=
  execInc_next.2 ⟨hc, rfl⟩

theorem execDec_eq_stored : exec (.dec n) s = .next (stored (sub8 (tapeRead s) n) s) :=
  execDec_next.2 ⟨hc, rfl⟩

end Stores

/-- Settles O13: each opcode stores one byte, the second one what the sum of the deltas gives, and of two stores
the second one stands. -/
theorem countedDeltasAddUp : Obligations.CountedDeltasAddUp := by
  intro s a b _ _ hc
  have hc' (x : Byte) : (stored x s).cursor.toNat < (stored x s).cfg.tapeLen := hc
  refine ⟨_, _, _, _, _, _, execInc_eq_stored hc a, execInc_eq_stored (hc' _) b,
    execInc_eq_stored hc _, ?_, ?_, execDec_eq_stored hc a, execDec_eq_stored (hc' _) b,
    execDec_eq_stored hc _, ?_, ?_⟩
  all_goals rw [tapeRead_stored]
  all_goals simp only [add8_add8, sub8_sub8]
  · exact (stored_stored ..).1
  · exact (stored_stored ..).2
  · exact (stored_stored ..).1
  · exact (stored_stored ..).2

end Sys2Proof.Machine

namespace Sys2Proof.Builder

/-! ### The builder's scan as a whole -/

section Scan

variable {maxNest romDepth fuel n : Nat} {src : List Role} {b b' : Scan} {e : BuildError}
  {out : List Instr}

@[simp] theorem scan_nil : scan maxNest fuel [] b = .ok b := by cases fuel <;> rfl

theorem scan_of_error (hsrc : src ≠ []) (h : scanStep maxNest src b = (.error e, n)) :
    scan maxNest (fuel + 1) src b = .error e := by
  simp [scan, hsrc, h]

theorem scan_of_ok (hsrc : src ≠ []) (h : scanStep maxNest src b = (.ok b', n)) :
    scan maxNest (fuel + 1) src b = scan maxNest fuel (src.drop n) b' := by
  simp [scan, hsrc, h]

theorem buildRoles_of_error (h : scan maxNest src.length src ⟨[], []⟩ = .error e) :
    buildRoles maxNest romDepth src = .refused e := by
  simp [buildRoles, h]

theorem buildRoles_of_ok (h : scan maxNest src.length src ⟨[], []⟩ = .ok b) :
    buildRoles maxNest romDepth src = finishScan romDepth b := by
  simp [buildRoles, h]

/-- What the end of the scan answers (R119). -/
theorem finishScan_image_iff : finishScan romDepth b = .image out ↔
    b.stk = [] ∧ b.out.length ≤ min romDepth (2 ^ 28 - 1) ∧ b.out = out := by
  unfold finishScan
  by_cases hstk : b.stk = []
  · by_cases hlen : min romDepth (2 ^ 28 - 1) < b.out.length
    · rw [if_neg (not_not.2 hstk), if_pos hlen]
      exact ⟨nofun, fun ⟨_, hle, _⟩ => absurd hlen (not_lt.2 hle)⟩
    · rw [if_neg (not_not.2 hstk), if_neg hlen]
      exact ⟨fun h => ⟨hstk, not_lt.1 hlen, Built.image.inj h⟩, fun ⟨_, _, h⟩ => congrArg _ h⟩
  · rw [if_pos hstk]
    exact ⟨nofun, fun ⟨h, _⟩ => absurd h hstk⟩

/-- An image is the output of a scan that leaves no loop open and fits. -/
theorem build_image {src : List Char} (h : build maxNest romDepth src = .image out) :
    scan maxNest (src.map roleOf).length (src.map roleOf) ⟨[], []⟩ = .ok ⟨out, []⟩ ∧
      out.length ≤ min romDepth (2 ^ 28 - 1) := by
  cases hs : scan maxNest (src.map roleOf).length (src.map roleOf) ⟨[], []⟩ with
  | error e => exact nomatch (buildRoles_of_error hs).symm.trans h
  | ok b =>
    obtain ⟨hstk, hlen, rfl⟩ := finishScan_image_iff.1 ((buildRoles_of_ok hs).symm.trans h)
    exact ⟨congrArg Except.ok (congrArg (Scan.mk b.out) hstk), hlen⟩

/-- What every turn keeps, the scan keeps. -/
theorem scan_keeps {P : Scan → Prop}
    (hstep : ∀ src b b' n, scanStep maxNest src b = (.ok b', n) → P b → P b')
    (h : scan maxNest fuel src b = .ok b') (hp : P b) : P b' := by
  induction fuel generalizing src b with
  | zero => exact Except.ok.inj h ▸ hp
  | succ fuel ih =>
    by_cases hsrc : src = []
    · subst hsrc
      exact Except.ok.inj (scan_nil.symm.trans h) ▸ hp
    · match hs : scanStep maxNest src b with
      | (.error e, n) => exact nomatch (scan_of_error hsrc hs).symm.trans h
      | (.ok c, n) => exact ih ((scan_of_ok hsrc hs).symm.trans h) (hstep _ _ _ _ hs hp)

end Scan

/-! ### A run makes one counted word -/

section Run

variable {maxNest romDepth k : Nat} {r : Role} {rest : List Role} {b : Scan} {e : BuildError}
  {i : Instr} {c : Char}

theorem runLength_replicate : runLength r (List.replicate k r) = k := by
  induction k with
  | zero => rfl
  | succ k ih => simp [List.replicate_succ, runLength, ih]

theorem appendRun_of_some (h : runInstr r k = .ok (some i)) :
    appendRun r k b = .ok (b.append i) := by
  simp [appendRun, h]

theorem appendRun_of_error (h : runInstr r k = .error e) : appendRun r k b = .error e := by
  simp [appendRun, h]

/-- A role whose runs the builder counts (R114). -/
def Role.counted : Role → Bool
  | .inc | .dec | .left | .right => true
  | .loopStart | .loopEnd | .read | .write | .comment => false

theorem scanStep_counted (hr : r.counted = true) : scanStep maxNest (r :: rest) b =
    (appendRun r (runLength r rest + 1) b, runLength r rest + 1) := by
  cases r with
  | inc | dec | left | right => rfl
  | loopStart | loopEnd | read | write | comment => cases hr

variable (hr : r.counted = true)
include hr

theorem scanStep_replicate : scanStep maxNest (List.replicate (k + 1) r) b =
    (appendRun r (k + 1) b, k + 1) := by
  rw [List.replicate_succ, scanStep_counted hr, runLength_replicate]

theorem buildRoles_replicate (hi : runInstr r (k + 1) = .ok (some i)) (hd : 1 ≤ romDepth) :
    buildRoles maxNest romDepth (List.replicate (k + 1) r) = .image [i] := by
  have hstep : scanStep maxNest (List.replicate (k + 1) r) ⟨[], []⟩ = (.ok ⟨[i], []⟩, k + 1) := by
    rw [scanStep_replicate hr, appendRun_of_some hi]
    rfl
  have hscan : scan maxNest (List.replicate (k + 1) r).length (List.replicate (k + 1) r) ⟨[], []⟩ =
      .ok ⟨[i], []⟩ := by
    rw [List.length_replicate, scan_of_ok (by simp) hstep, List.drop_replicate, Nat.sub_self]
    exact scan_nil
  rw [buildRoles_of_ok hscan]
  exact finishScan_image_iff.2 ⟨rfl, le_min hd (Nat.le_of_ble_eq_true rfl), rfl⟩

theorem buildRoles_replicate_refused (hi : runInstr r (k + 1) = .error e) :
    buildRoles maxNest romDepth (List.replicate (k + 1) r) = .refused e := by
  have hstep : scanStep maxNest (List.replicate (k + 1) r) ⟨[], []⟩ = (.error e, k + 1) := by
    rw [scanStep_replicate hr, appendRun_of_error hi]
  apply buildRoles_of_error
  rw [List.length_replicate, scan_of_error (by simp) hstep]

omit hr in
theorem build_replicate : build maxNest romDepth (List.replicate k c) =
    buildRoles maxNest romDepth (List.replicate k (roleOf c)) := by
  rw [build, List.map_replicate]

end Run

/-- Settles O51: the first turn takes the whole run, and its word or its refusal is the build's. -/
theorem runBuildsOneCountedWord : Obligations.RunBuildsOneCountedWord := by
  intro maxNest romDepth R hR hd
  obtain ⟨k, rfl⟩ := Nat.exists_eq_add_of_le' hR
  simp only [build_replicate]
  refine ⟨buildRoles_replicate rfl rfl hd, buildRoles_replicate rfl rfl hd, fun h => ?_, fun h => ?_⟩
  · have hn : ¬ 2 ^ 28 - 1 < k + 1 := by omega
    exact ⟨buildRoles_replicate rfl (if_neg hn) hd, buildRoles_replicate rfl (if_neg hn) hd⟩
  · exact ⟨buildRoles_replicate_refused rfl (if_pos h), buildRoles_replicate_refused rfl (if_pos h)⟩

/-! ### What the scan does to the open loops -/

/-- How a scan that has fuel enough ends: with as many pending jumps as the source leaves loops open, or at a
loop end that meets none, or at a loop start too deep, or at a run too long. -/
inductive ScanEnd (maxNest : Nat) (src : List Role) (b : Scan) : Except BuildError Scan → Prop
  | done (b' : Scan) (h : openLoops b.stk.length src = some b'.stk.length) :
      ScanEnd maxNest src b (.ok b')
  | noOpenLoop (h : openLoops b.stk.length src = none) :
      ScanEnd maxNest src b (.error .unmatchedLoopEnd)
  | tooDeep (h : maxNest < b.stk.length + src.length) : ScanEnd maxNest src b (.error .nestDepth)
  | tooLong (h : 2 ^ 28 - 1 < src.length) : ScanEnd maxNest src b (.error .countRange)

section Loops

variable {maxNest fuel : Nat} {src : List Role} {b : Scan}

theorem scan_end (hf : src.length ≤ fuel) : ScanEnd maxNest src b (scan maxNest fuel src b) := by
  induction fuel generalizing src b with
  | zero =>
    obtain rfl := List.eq_nil_of_length_eq_zero (by omega : src.length = 0)
    exact .done b rfl
  | succ fuel ih =>
    by_cases hsrc : src = []
    · subst hsrc
      rw [scan_nil]
      exact .done b rfl
    have heff := scanStep_effect (maxNest := maxNest) (b := b) hsrc
    generalize hs : scanStep maxNest src b = o at heff
    have hpos := List.length_pos_of_ne_nil hsrc
    cases heff with
    | noOpenLoop n h => rw [scan_of_error hsrc hs]; exact .noOpenLoop h
    | tooDeep n h => rw [scan_of_error hsrc hs]; exact .tooDeep (by omega)
    | tooLong n h => rw [scan_of_error hsrc hs]; exact .tooLong h
    | goesOn b' n h1 hn hlen hopen =>
      rw [scan_of_ok hsrc hs]
      have hdrop : (src.drop n).length = src.length - n := List.length_drop
      have hrest := ih (src := src.drop n) (b := b') (by omega)
      generalize scan maxNest fuel (src.drop n) b' = o at hrest
      cases hrest with
      | done c h => exact .done c (hopen ▸ h)
      | noOpenLoop h => exact .noOpenLoop (hopen ▸ h)
      | tooDeep h => exact .tooDeep (by omega)
      | tooLong h => exact .tooLong (by omega)

end Loops

/-- How a build ends: the loops match and the image fits or not, or the source is refused for a loop that does
not match, a loop start too deep or a run too long. -/
inductive BuildEnd (maxNest : Nat) (src : List Role) : Built → Prop
  | image (out : List Instr) (h : openLoops 0 src = some 0) : BuildEnd maxNest src (.image out)
  | tooBig (h : openLoops 0 src = some 0) : BuildEnd maxNest src (.refused .progRange)
  | leftOpen (d : Nat) (h : openLoops 0 src = some (d + 1)) :
      BuildEnd maxNest src (.refused .unmatchedLoopStart)
  | noOpenLoop (h : openLoops 0 src = none) : BuildEnd maxNest src (.refused .unmatchedLoopEnd)
  | tooDeep (h : maxNest < src.length) : BuildEnd maxNest src (.refused .nestDepth)
  | tooLong (h : 2 ^ 28 - 1 < src.length) : BuildEnd maxNest src (.refused .countRange)

section Builds

variable {maxNest romDepth : Nat}

theorem finishScan_end {src : List Role} {b : Scan} (h : openLoops 0 src = some b.stk.length) :
    BuildEnd maxNest src (finishScan romDepth b) := by
  unfold finishScan
  split
  · next hb =>
    obtain ⟨k, stk, hb⟩ := List.exists_cons_of_ne_nil hb
    exact .leftOpen stk.length (by simpa [hb] using h)
  · next hb =>
    have h0 : openLoops 0 src = some 0 := by simpa [not_not.1 hb] using h
    split
    · exact .tooBig h0
    · exact .image _ h0

theorem buildRoles_end (src : List Role) : BuildEnd maxNest src (buildRoles maxNest romDepth src) := by
  have hend := scan_end (maxNest := maxNest) (b := ⟨[], []⟩) (Nat.le_refl src.length)
  generalize hs : scan maxNest src.length src ⟨[], []⟩ = o at hend
  cases hend with
  | done b h => rw [buildRoles_of_ok hs]; exact finishScan_end h
  | noOpenLoop h => rw [buildRoles_of_error hs]; exact .noOpenLoop h
  | tooDeep h => rw [buildRoles_of_error hs]; exact .tooDeep (by simpa using h)
  | tooLong h => rw [buildRoles_of_error hs]; exact .tooLong h

/-- The first turn already meets the loop end, whatever follows. -/
theorem build_loopEnd_cons (src : List Char) :
    build maxNest romDepth (']' :: src) = .refused .unmatchedLoopEnd := rfl

end Builds

/-- Settles O52: each clause is read off how the build ends. -/
theorem unmatchedLoopsAreRefused : Obligations.UnmatchedLoopsAreRefused := by
  intro maxNest romDepth src
  have hlen : (src.map roleOf).length = src.length := List.length_map _
  have hend : BuildEnd maxNest (src.map roleOf) (build maxNest romDepth src) := buildRoles_end _
  have hfirst := build_loopEnd_cons (maxNest := maxNest) (romDepth := romDepth) src
  generalize build maxNest romDepth src = o at hend
  cases hend with
  | image out h | tooBig h | leftOpen d h | noOpenLoop h => simp [h, hfirst]
  | tooDeep h =>
    exact ⟨fun _ => .inr (.inr rfl), fun _ _ => .inr (.inr rfl), fun hle => absurd h (by omega),
      hfirst, fun _ => ⟨nofun, nofun⟩⟩
  | tooLong h =>
    exact ⟨fun _ => .inr (.inl rfl), fun _ _ => .inr (.inl rfl), fun _ hle => absurd h (by omega),
      hfirst, fun _ => ⟨nofun, nofun⟩⟩

/-! ### What a turn of the scan makes -/

/-- What a turn of the scan that goes on makes: nothing, one word that is no jump (R94) and fits its format, a
loop start or a loop end. -/
inductive Made (b : Scan) : Scan → Prop
  | nothing : Made b b
  | word (i : Instr) (hi : i.wellFormed = true) (hj : i.opcode < 8) : Made b (b.append i)
  | loopStart : Made b ⟨b.out ++ [.jmpf 0], b.out.length :: b.stk⟩
  | loopEnd (k : Nat) (stk : List Nat) (hb : b.stk = k :: stk) :
      Made b ⟨b.out.set k (.jmpf (b.out.length + 1)) ++ [.jmpb k], stk⟩

section Made

variable {maxNest n : Nat} {r : Role} {src : List Role} {b b' : Scan} {i : Instr}

/-- A counted word is no jump, and its count fits its format (R114). -/
theorem runInstr_some (h : runInstr r n = .ok (some i)) : i.wellFormed = true ∧ i.opcode < 8 := by
  cases r with
  | inc | dec =>
    obtain rfl : _ = i := by simpa [runInstr] using h
    simp [Instr.wellFormed, Instr.opcode, Nat.mod_lt]
  | left | right =>
    simp only [runInstr] at h
    split at h
    · cases h
    · obtain rfl : _ = i := by simpa using h
      exact ⟨decide_eq_true (by omega), by simp [Instr.opcode]⟩
  | loopStart | loopEnd | read | write | comment => cases h

theorem appendRun_made (h : appendRun r n b = .ok b') : Made b b' := by
  unfold appendRun at h
  split at h
  · cases h
  · obtain rfl := Except.ok.inj h
    exact .nothing
  · next i hi =>
    obtain rfl := Except.ok.inj h
    obtain ⟨hwf, hj⟩ := runInstr_some hi
    exact .word i hwf hj

theorem openLoop_made (h : openLoop maxNest b = .ok b') : Made b b' := by
  unfold openLoop at h
  split at h
  · cases h
  · obtain rfl := Except.ok.inj h
    exact .loopStart

theorem closeLoop_made (h : closeLoop b = .ok b') : Made b b' := by
  unfold closeLoop at h
  split at h
  · cases h
  · next k stk hb =>
    obtain rfl := Except.ok.inj h
    exact .loopEnd k stk hb

theorem scanStep_made (h : (scanStep maxNest src b).1 = .ok b') : Made b b' := by
  cases src with
  | nil =>
    obtain rfl := Except.ok.inj h
    exact .nothing
  | cons r rest =>
    cases r with
    | inc | dec | left | right =>
      simp only [scanStep] at h
      exact appendRun_made h
    | read | write =>
      obtain rfl := Except.ok.inj h
      exact .word _ rfl (by decide)
    | comment =>
      obtain rfl := Except.ok.inj h
      exact .nothing
    | loopEnd => exact closeLoop_made h
    | loopStart =>
      simp only [scanStep] at h
      split at h
      · obtain rfl := Except.ok.inj h
        exact .word _ rfl (by decide)
      · exact openLoop_made h

end Made

/-- An invariant of the builder: what holds at the start and what every turn's work keeps holds of an image. -/
theorem build_image_keeps {P : Scan → Prop} {maxNest romDepth : Nat} {src : List Char} {out : List Instr}
    (h : build maxNest romDepth src = .image out) (hstart : P ⟨[], []⟩)
    (hmade : ∀ b b', Made b b' → P b → P b') : P ⟨out, []⟩ :=
  scan_keeps (fun _ b b' _ hs => hmade b b' (scanStep_made (congrArg Prod.fst hs)))
    (build_image h).1 hstart

/-! ### The jumps of an output list -/

section Lookup

variable {out : List Instr} {i x : Instr} {j k k' d e : Nat}

theorem lt_of_getElem? (h : out[j]? = some x) : j < out.length := (List.getElem?_eq_some_iff.1 h).1

theorem getElem?_concat_iff :
    (out ++ [i])[j]? = some x ↔ out[j]? = some x ∨ (j = out.length ∧ i = x) := by
  rcases Nat.lt_trichotomy j out.length with hj | rfl | hj
  · simp [List.getElem?_append_left hj, hj.ne]
  · simp
  · have hnone : (out ++ [i])[j]? = none := List.getElem?_eq_none (by simp; omega)
    simp [hnone, List.getElem?_eq_none hj.le, hj.ne']

/-- A word that is no jump leaves the jumps. -/
theorem getElem?_concat_word_iff (hi : i.opcode < 8) (hx : 8 ≤ x.opcode) :
    (out ++ [i])[j]? = some x ↔ out[j]? = some x := by
  have hne : i ≠ x := by rintro rfl; omega
  simp [getElem?_concat_iff, hne]

/-- A forward jump rewritten leaves the backward jumps. -/
theorem getElem?_set_jmpb_iff (hk : out[k]? = some (.jmpf e)) :
    (out.set k (.jmpf d))[j]? = some (.jmpb k') ↔ out[j]? = some (.jmpb k') := by
  by_cases hj : k = j
  · subst hj
    simp [List.getElem?_set, hk]
  · rw [List.getElem?_set_ne hj]

/-- A forward jump rewritten leaves the other forward jumps. -/
theorem getElem?_set_jmpf_iff (hk : out[k]? = some (.jmpf e)) :
    (out.set k (.jmpf d))[j]? = some x ↔ (j = k ∧ x = .jmpf d) ∨ (j ≠ k ∧ out[j]? = some x) := by
  have hlt : k < out.length := lt_of_getElem? hk
  by_cases hj : k = j
  · subst hj
    simp [List.getElem?_set_self hlt, eq_comm]
  · simp [List.getElem?_set_ne hj, Ne.symm hj]

end Lookup

/-! ### The jumps of an output list pair like parentheses -/

/-- The jumps of the output list and the pending jumps, which are its open parentheses (R117, R118, R122). -/
structure Scan.Paired (b : Scan) : Prop where
  /-- A pending jump is a placeholder. -/
  pending : ∀ k ∈ b.stk, b.out[k]? = some (.jmpf 0)
  /-- The pending jumps fall from the top of the stack down. -/
  falling : b.stk.Pairwise (· > ·)
  /-- A forward jump is pending, or leads one past a backward jump that leads back to it. -/
  forward : ∀ k d, b.out[k]? = some (.jmpf d) →
    k ∈ b.stk ∨ ∃ j, k < j ∧ d = j + 1 ∧ b.out[j]? = some (.jmpb k)
  /-- A backward jump leads to a forward jump before it that leads one past it. -/
  backward : ∀ j k, b.out[j]? = some (Instr.jmpb k) → k < j ∧ b.out[k]? = some (Instr.jmpf (j + 1))
  /-- Two pairs never cross. -/
  nested : ∀ j k j' k', b.out[j]? = some (Instr.jmpb k) → b.out[j']? = some (Instr.jmpb k') →
    k < k' → k' < j → j' < j
  /-- No pair has a pending jump inside. -/
  outside : ∀ k ∈ b.stk, ∀ j k', b.out[j]? = some (Instr.jmpb k') → k' < k → j < k

namespace Scan.Paired

theorem start : Scan.Paired ⟨[], []⟩ := by constructor <;> simp

variable {b : Scan} (h : b.Paired)
include h

theorem append {i : Instr} (hj : i.opcode < 8) : (b.append i).Paired := by
  have hf (k d : Nat) : (b.append i).out[k]? = some (.jmpf d) ↔ b.out[k]? = some (.jmpf d) :=
    getElem?_concat_word_iff hj (by simp [Instr.opcode])
  have hb (j k : Nat) : (b.append i).out[j]? = some (.jmpb k) ↔ b.out[j]? = some (.jmpb k) :=
    getElem?_concat_word_iff hj (by simp [Instr.opcode])
  constructor <;> simp only [hf, hb, show (b.append i).stk = b.stk from rfl]
  exacts [h.pending, h.falling, h.forward, h.backward, h.nested, h.outside]

theorem lt_of_pending {k : Nat} (hk : k ∈ b.stk) : k < b.out.length :=
  lt_of_getElem? (h.pending k hk)

theorem loopStart : Scan.Paired ⟨b.out ++ [.jmpf 0], b.out.length :: b.stk⟩ := by
  have hf (k d : Nat) : (b.out ++ [.jmpf 0])[k]? = some (.jmpf d) ↔
      b.out[k]? = some (.jmpf d) ∨ (k = b.out.length ∧ d = 0) := by
    simp [getElem?_concat_iff, eq_comm (a := 0) (b := d)]
  have hb (j k : Nat) : (b.out ++ [.jmpf 0])[j]? = some (.jmpb k) ↔ b.out[j]? = some (.jmpb k) := by
    simp [getElem?_concat_iff]
  constructor <;> simp only [hf, hb, List.mem_cons]
  case pending =>
    rintro k (rfl | hk)
    · exact .inr ⟨rfl, trivial⟩
    · exact .inl (h.pending k hk)
  case falling => exact List.pairwise_cons.2 ⟨fun k hk => h.lt_of_pending hk, h.falling⟩
  case forward =>
    rintro k d (hd | ⟨rfl, -⟩)
    · exact (h.forward k d hd).imp_left .inr
    · exact .inl (.inl rfl)
  case backward => exact fun j k hj => (h.backward j k hj).imp_right .inl
  case nested => exact h.nested
  case outside =>
    rintro k (rfl | hk) j k' hj hlt
    · exact lt_of_getElem? hj
    · exact h.outside k hk j k' hj hlt

theorem loopEnd {k : Nat} {stk : List Nat} (hstk : b.stk = k :: stk) :
    Scan.Paired ⟨b.out.set k (.jmpf (b.out.length + 1)) ++ [.jmpb k], stk⟩ := by
  have hk : k ∈ b.stk := by simp [hstk]
  have hrest {k' : Nat} (hk' : k' ∈ stk) : k' ∈ b.stk := by simp [hstk, hk']
  obtain ⟨hbelow, hfalling⟩ := List.pairwise_cons.1 (hstk ▸ h.falling)
  have hf (k' d : Nat) : (b.out.set k (.jmpf (b.out.length + 1)) ++ [.jmpb k])[k']? = some (.jmpf d) ↔
      (k' = k ∧ d = b.out.length + 1) ∨ (k' ≠ k ∧ b.out[k']? = some (.jmpf d)) := by
    simp [getElem?_concat_iff, getElem?_set_jmpf_iff (h.pending k hk)]
  have hb (j k' : Nat) : (b.out.set k (.jmpf (b.out.length + 1)) ++ [.jmpb k])[j]? = some (.jmpb k') ↔
      b.out[j]? = some (.jmpb k') ∨ (j = b.out.length ∧ k' = k) := by
    simp [getElem?_concat_iff, getElem?_set_jmpb_iff (h.pending k hk), eq_comm (a := k) (b := k')]
  constructor <;> simp only [hf, hb]
  case pending => exact fun k' hk' => .inr ⟨(hbelow k' hk').ne, h.pending k' (hrest hk')⟩
  case falling => exact hfalling
  case forward =>
    rintro k' d (⟨rfl, rfl⟩ | ⟨hne, hd⟩)
    · exact .inr ⟨_, h.lt_of_pending hk, rfl, .inr ⟨rfl, rfl⟩⟩
    · rcases h.forward k' d hd with hk' | ⟨j, hlt, hdj, hj⟩
      · exact .inl (by simpa [hstk, hne] using hk')
      · exact .inr ⟨j, hlt, hdj, .inl hj⟩
  case backward =>
    rintro j k' (hj | ⟨rfl, rfl⟩)
    · obtain ⟨hlt, hd⟩ := h.backward j k' hj
      refine ⟨hlt, .inr ⟨?_, hd⟩⟩
      rintro rfl
      simp [h.pending k' hk] at hd
    · exact ⟨h.lt_of_pending hk, .inl ⟨rfl, rfl⟩⟩
  case nested =>
    rintro j k₁ j' k₂ (hj | ⟨rfl, rfl⟩) (hj' | ⟨rfl, rfl⟩) hlt hin
    · exact h.nested j k₁ j' k₂ hj hj' hlt hin
    · exact absurd (h.outside k₂ hk j k₁ hj hlt) hin.not_gt
    · exact lt_of_getElem? hj'
    · exact absurd hlt (lt_irrefl _)
  case outside =>
    rintro k' hk' j k₁ (hj | ⟨rfl, rfl⟩) hlt
    · exact h.outside k' (hrest hk') j k₁ hj hlt
    · exact absurd hlt (hbelow k' hk').not_gt

theorem made {b' : Scan} (hm : Made b b') : b'.Paired := by
  cases hm with
  | nothing => exact h
  | word i _ hj => exact h.append hj
  | loopStart => exact h.loopStart
  | loopEnd k stk hb => exact h.loopEnd hb

/-- Every destination is at most the length: a backward jump's is before it, a forward jump's one past a
word. -/
theorem dest_le (hstk : b.stk = []) {k d : Nat}
    (hd : b.out[k]? = some (.jmpf d) ∨ b.out[k]? = some (.jmpb d)) : d ≤ b.out.length := by
  rcases hd with hd | hd
  · rcases h.forward k d hd with hk | ⟨j, -, rfl, hj⟩
    · simp [hstk] at hk
    · exact lt_of_getElem? hj
  · exact (h.backward k d hd).1.le.trans (lt_of_getElem? hd).le

end Scan.Paired

theorem build_image_paired {maxNest romDepth : Nat} {src : List Char} {out : List Instr}
    (h : build maxNest romDepth src = .image out) : Scan.Paired ⟨out, []⟩ :=
  build_image_keeps h Scan.Paired.start fun _ _ hm hp => hp.made hm

/-- Settles O54: the pairing holds of the pending jumps and the output list along the scan, and at its end no
jump is pending. -/
theorem builtJumpsPairLikeParentheses : Obligations.BuiltJumpsPairLikeParentheses := by
  intro maxNest romDepth src out h
  have hp := build_image_paired h
  exact ⟨fun k d hd => (hp.forward k d hd).resolve_left nofun, hp.backward, hp.nested,
    fun _ _ hd => hp.dest_le rfl hd⟩

/-! ### Every word of an image is legal -/

/-- Every word that is no jump fits its format. -/
def Scan.CountsFit (b : Scan) : Prop := ∀ i ∈ b.out, i.opcode < 8 → i.wellFormed = true

theorem Scan.CountsFit.made {b b' : Scan} (h : b.CountsFit) (hm : Made b b') : b'.CountsFit := by
  intro i hi hop
  cases hm with
  | nothing => exact h i hi hop
  | word j hj _ =>
    rcases List.mem_append.1 hi with hi | hi
    · exact h i hi hop
    · exact List.mem_singleton.1 hi ▸ hj
  | loopStart =>
    rcases List.mem_append.1 hi with hi | hi
    · exact h i hi hop
    · exact absurd hop (by simp [List.mem_singleton.1 hi, Instr.opcode])
  | loopEnd k stk _ =>
    rcases List.mem_append.1 hi with hi | hi
    · rcases List.mem_or_eq_of_mem_set hi with hi | rfl
      · exact h i hi hop
      · exact absurd hop (by simp [Instr.opcode])
    · exact absurd hop (by simp [List.mem_singleton.1 hi, Instr.opcode])

theorem build_image_countsFit {maxNest romDepth : Nat} {src : List Char} {out : List Instr}
    (h : build maxNest romDepth src = .image out) : Scan.CountsFit ⟨out, []⟩ :=
  build_image_keeps h nofun fun _ _ hm hp => hp.made hm

/-- Settles O53: the end of the scan bounds the length, a count fits since a longer run is refused, and a
destination fits since it is at most the length. -/
theorem builtImagesAreLegalAndFit : Obligations.BuiltImagesAreLegalAndFit := by
  intro maxNest romDepth src out h
  have hlen := le_min_iff.1 (build_image h).2
  have hdest {k d : Nat} (hd : out[k]? = some (.jmpf d) ∨ out[k]? = some (.jmpb d)) : d < 2 ^ 28 :=
    ((build_image_paired h).dest_le rfl hd).trans_lt (Nat.lt_of_le_pred (by decide) hlen.2)
  have hwf : ∀ i ∈ out, i.wellFormed = true := by
    intro i hi
    by_cases hop : i.opcode < 8
    · exact build_image_countsFit h i hi hop
    · obtain ⟨k, hk⟩ := List.mem_iff_getElem?.1 hi
      cases i with
      | jmpf d => exact decide_eq_true (hdest (.inl hk))
      | jmpb d => exact decide_eq_true (hdest (.inr hk))
      | inc | dec | left | right | zero | read | write => exact absurd (by simp [Instr.opcode]) hop
  exact ⟨hlen.1, hlen.2, fun i hi => ⟨hwf i hi, decode_encode (hwf i hi)⟩⟩

end Sys2Proof.Builder

/-! The execution cycle (40_execution_cycle.md, R140 to R151): what a core turn runs, how `IP` moves, that a legal
machine always answers a next state, and the count of a run's core steps. -/

namespace Sys2Proof.Machine

/-! ### What a core turn runs -/

/-- Settles O27: `PROG_LEN` is at most `ROM_DEPTH`, so the fetch is inside the ROM. -/
theorem stepRunsTheDecodedInstruction : Obligations.StepRunsTheDecodedInstruction := by
  rintro s i hc ⟨hr, hrun, hp⟩ hrom hw
  rw [step_of_core hc]
  exact coreStep_exec (s := s.afterTurn) hr hrun hp (hp.trans_le hrom) hw

/-- Settles O28: the termination test comes before the fetch. -/
theorem terminationSetsDoneAndNothingElse : Obligations.TerminationSetsDoneAndNothingElse :=
  fun s hc hr hrun hp => (step_of_core hc).trans (coreStep_finish (s := s.afterTurn) hr hrun hp)

/-! ### A legal machine never stops -/

section Progress

variable {s : State}

/-- With the cursor on the tape every instruction answers a next state (R242). -/
theorem exec_answers_next (hc : s.cursor.toNat < s.cfg.tapeLen) (i : Instr) :
    ∃ t, exec i s = .next t := by
  cases i with
  | inc n => exact ⟨_, execInc_next.2 ⟨hc, rfl⟩⟩
  | dec n => exact ⟨_, execDec_next.2 ⟨hc, rfl⟩⟩
  | zero => exact ⟨_, execZero_next.2 ⟨hc, rfl⟩⟩
  | write => exact ⟨_, execWrite_next.2 ⟨hc, rfl⟩⟩
  | jmpf d => exact ⟨_, execJmpf_next.2 ⟨hc, rfl⟩⟩
  | jmpb d => exact ⟨_, execJmpb_next.2 ⟨hc, rfl⟩⟩
  | left n => exact ⟨_, rfl⟩
  | right n => exact ⟨_, rfl⟩
  | read =>
    cases hv : s.inValid with
    | true => exact ⟨_, execRead_next.2 (.inl ⟨hv, hc, rfl⟩)⟩
    | false =>
      cases he : s.inEof with
      | true => exact ⟨_, execRead_next.2 (.inr (.inl ⟨hv, he, rfl⟩))⟩
      | false => exact ⟨_, execRead_next.2 (.inr (.inr ⟨hv, he, rfl⟩))⟩

/-- The core's turn in a legal state answers a next state: a fetch is inside the ROM (R142) and an access to
the current cell inside the tape (R23). -/
theorem State.Inv.coreStep_answers_next (h : s.Inv) : ∃ t, Machine.coreStep s = .next t := by
  by_cases hidle : s.rst = true ∨ s.status ≠ .run
  · exact ⟨s, coreStep_idle hidle⟩
  obtain ⟨hr, hrun⟩ : s.rst = false ∧ s.status = .run := by simpa using hidle
  rcases Nat.lt_or_ge s.ip.toNat s.progLen.toNat with hp | hp
  · have hrom := hp.trans_le h.progLen
    cases hw : decode (fetchWord s) with
    | instr i => exact coreStep_exec hr hrun hp hrom hw ▸ exec_answers_next h.cursor i
    | illegal why => exact ⟨_, coreStep_illegal hr hrun hp hrom hw⟩
  · exact ⟨_, coreStep_finish hr hrun hp⟩

end Progress

/-- Settles O42: a core turn and an enabled host move answer a next state, and `hostStep` refuses any other
move. -/
theorem legalMachineNeverStops : Obligations.LegalMachineNeverStops := by
  intro s h
  have core_turn (hc : s.nextIsCore = true) : ∃ t, step s = .next t :=
    step_of_core hc ▸ (h.setSchedule s.schedule.tail).coreStep_answers_next
  unfold State.nextMoveBad
  split
  · next m rest hs =>
    rw [step_of_host hs, afterTurn_of_schedule hs, hostStep]
    cases moveEnabled m (setSchedule rest s) <;> simp
  · next hs =>
    refine ⟨fun _ => core_turn ?_, nofun⟩
    unfold State.nextIsCore
    split
    · rfl
    · rfl
    · next m rest e => exact absurd e (hs m rest)

/-! ### How `IP` moves -/

section NextIp

variable {i : Instr} {s t : State}

/-- A step is the core's turn, RESET, or a host move that keeps the control state. -/
theorem step_control (h : step s = .next t) :
    (s.nextIsCore = true ∧ coreStep s.afterTurn = .next t) ∨
    (s.nextIsReset = true ∧ t = resetAll s.afterTurn) ∨ s.SameControl t := by
  rcases step_next h with hc | ⟨m, rest, hs, -, rfl⟩
  · exact .inl hc
  · by_cases hm : m = .assertReset
    · subst hm
      exact .inr (.inl ⟨by simp [State.nextIsReset, hs], rfl⟩)
    · have kept := moveEffect_sameControl (s := s.afterTurn) hm
      exact .inr (.inr { kept with })

theorem moveOr_ip (b : Bool) (target : Int) (c : Cause) :
    (moveOr b target c s).ip = s.ip ∨ (moveOr b target c s).ip = s.ip + 1 := by
  unfold moveOr; split <;> simp

theorem jumpMux_ip (dir : Direction) (v : Byte) (d : Nat) :
    (jumpMux dir v d s).ip = s.ip + 1 ∨
    (jumpTaken dir (zeroDetect v) = true ∧ (jumpMux dir v d s).ip = BitVec.ofNat 28 d) := by
  unfold jumpMux; split <;> simp_all

/-- An instruction keeps `IP`, advances it, or is a jump that is taken (R222). -/
theorem exec_ip (h : exec i s = .next t) :
    t.ip = s.ip ∨ t.ip = s.ip + 1 ∨
    (∃ d, i = .jmpf d ∧ tapeRead s = 0 ∧ t.ip = BitVec.ofNat 28 d) ∨
    (∃ d, i = .jmpb d ∧ tapeRead s ≠ 0 ∧ t.ip = BitVec.ofNat 28 d) := by
  cases i with
  | inc n => obtain ⟨-, rfl⟩ := execInc_next.1 h; exact .inr (.inl rfl)
  | dec n => obtain ⟨-, rfl⟩ := execDec_next.1 h; exact .inr (.inl rfl)
  | zero => obtain ⟨-, rfl⟩ := execZero_next.1 h; exact .inr (.inl rfl)
  | write => obtain ⟨-, rfl⟩ := execWrite_next.1 h; exact .inr (.inl rfl)
  | left n =>
    obtain rfl := Host.Outcome.next.inj h
    exact (moveOr_ip ..).imp_right .inl
  | right n =>
    obtain rfl := Host.Outcome.next.inj h
    exact (moveOr_ip ..).imp_right .inl
  | read =>
    rcases execRead_next.1 h with ⟨-, -, rfl⟩ | ⟨-, -, rfl⟩ | ⟨-, -, rfl⟩
    · exact .inr (.inl rfl)
    · exact .inl rfl
    · exact .inl rfl
  | jmpf d =>
    obtain ⟨-, rfl⟩ := execJmpf_next.1 h
    rcases jumpMux_ip (s := s) .forward (tapeRead s) d with e | ⟨hz, e⟩
    · exact .inr (.inl e)
    · exact .inr (.inr (.inl ⟨d, rfl, (zeroDetect_iff _).1 hz, e⟩))
  | jmpb d =>
    obtain ⟨-, rfl⟩ := execJmpb_next.1 h
    rcases jumpMux_ip (s := s) .backward (tapeRead s) d with e | ⟨hz, e⟩
    · exact .inr (.inl e)
    · exact .inr (.inr (.inr ⟨d, rfl, by simpa [jumpTaken, zeroDetect] using hz, e⟩))

/-- A core turn that changes `IP` runs the instruction at `IP`: nothing else in the cycle writes it. -/
theorem coreStep_exec_of_ip_ne (h : coreStep s = .next t) (hip : t.ip ≠ s.ip) :
    s.fetches ∧ ∃ i, decode (fetchWord s) = .instr i ∧ exec i s = .next t := by
  rcases coreStep_next h with ⟨-, rfl⟩ | ⟨hr, hrun, ⟨-, rfl⟩ | ⟨hp, -, ⟨-, -, rfl⟩ | hw⟩⟩
  · exact absurd rfl hip
  · exact absurd rfl hip
  · exact absurd rfl hip
  · exact ⟨⟨hr, hrun, hp⟩, hw⟩

/-- Below `PROG_LEN` the sequential advance does not wrap (R148). -/
theorem toNat_ip_succ (hp : s.ip.toNat < s.progLen.toNat) : (s.ip + 1).toNat = s.ip.toNat + 1 := by
  bv_omega

/-- A destination that the decoder reads from a word fits the 28 bits of `IP`. -/
theorem toNat_dest_of_decode {w : Word} {d : Nat}
    (hw : decode w = .instr (.jmpf d) ∨ decode w = .instr (.jmpb d)) : (BitVec.ofNat 28 d).toNat = d := by
  have hd : d < 2 ^ 28 := by
    rcases hw with hw | hw <;> exact of_decide_eq_true (decode_wellFormed hw)
  exact (BitVec.toNat_ofNat ..).trans (Nat.mod_eq_of_lt hd)

end NextIp

/-- Settles O25: no host move but RESET writes `IP`, and a core turn that changes it runs an instruction, which
advances or is a taken jump. -/
theorem ipChangesOnlyByAdvanceJumpOrReset : Obligations.IpChangesOnlyByAdvanceJumpOrReset := by
  intro s t _ hs hip
  rcases step_control hs with ⟨hc, h⟩ | ⟨hreset, rfl⟩ | kept
  · obtain ⟨hf, i, hw, he⟩ := coreStep_exec_of_ip_ne (s := s.afterTurn) h hip
    refine .inr ⟨hc, hf, ?_⟩
    rcases exec_ip he with e | e | ⟨d, rfl, hz, e⟩ | ⟨d, rfl, hz, e⟩
    · exact absurd e hip
    · exact .inl (e ▸ toNat_ip_succ (s := s.afterTurn) hf.2.2)
    · exact .inr (.inl ⟨d, hw, hz, e ▸ toNat_dest_of_decode (.inl hw)⟩)
    · exact .inr (.inr ⟨d, hw, hz, e ▸ toNat_dest_of_decode (.inr hw)⟩)
  · exact .inl ⟨hreset, rfl⟩
  · exact absurd kept.ip hip

/-! ### The count of core steps -/

section StepCount

variable {s t : State}

/-- What it takes for a turn to complete an opcode. -/
theorem completedOpcode_eq_some_iff {i : Instr} : completedOpcode s = some i ↔
    s.nextIsCore = true ∧ s.fetches ∧ holds s = false ∧
      decode (Rom.read s.rom s.ip.toNat) = .instr i ∧ ∃ t, step s = .next t ∧ t.status = .run := by
  unfold completedOpcode
  split
  · next h =>
    obtain ⟨⟨hc, hr, hrun, hh⟩, hp⟩ :=
      (Bool.and_eq_true_iff.1 h).imp isCoreStep_iff.1 of_decide_eq_true
    rw [← fetchWord]
    split
    · next j u hw hu => simp [State.fetches, hc, hr, hrun, hp, hh, hw, hu, and_comm]
    · next hno =>
      refine ⟨nofun, ?_⟩
      rintro ⟨-, -, -, hw, u, hu, -⟩
      exact absurd hu (hno i u hw)
  · next h =>
    refine ⟨nofun, ?_⟩
    rintro ⟨hc, ⟨hr, hrun, hp⟩, hh, -⟩
    exact absurd (by simp [isCoreStep_iff.2 ⟨hc, hr, hrun, hh⟩, hp]) h

/-- A turn that is no core step completes no opcode. -/
theorem completedOpcode_of_not_isCoreStep (h : isCoreStep s = false) : completedOpcode s = none := by
  refine Option.eq_none_iff_forall_ne_some.2 fun i hi => ?_
  obtain ⟨hc, ⟨hr, hrun, -⟩, hh, -⟩ := completedOpcode_eq_some_iff.1 hi
  exact Bool.false_ne_true (h.symm.trans (isCoreStep_iff.2 ⟨hc, hr, hrun, hh⟩))

/-- A turn that does not leave the machine running completes no opcode. -/
theorem completedOpcode_of_run_ends (hs : step s = .next t) (ht : t.status ≠ .run) :
    completedOpcode s = none := by
  refine Option.eq_none_iff_forall_ne_some.2 fun i hi => ?_
  obtain ⟨-, -, -, -, u, hu, hrun⟩ := completedOpcode_eq_some_iff.1 hi
  obtain rfl := Host.Outcome.next.inj (hs.symm.trans hu)
  exact ht hrun

theorem holds_iff : holds s = true ↔ s.status = .run ∧ s.ip.toNat < s.progLen.toNat ∧
    decode (fetchWord s) = .instr .read ∧ s.inValid = false ∧ s.inEof = false := by
  simp [holds, and_assoc]

/-- A core turn in a hold changes nothing (R147). -/
theorem eq_of_holds_of_coreStep (hh : holds s = true) (h : coreStep s = .next t) : t = s := by
  obtain ⟨-, hp, hw, hv, he⟩ := holds_iff.1 hh
  rcases coreStep_next h with ⟨-, rfl⟩ | ⟨-, -, ⟨hp', -⟩ | ⟨-, -, ⟨_, hw', -⟩ | ⟨i, hw', hx⟩⟩⟩
  · rfl
  · omega
  · cases hw.symm.trans hw'
  · obtain rfl := Decoded.instr.inj (hw.symm.trans hw')
    simpa [hv, he, eq_comm] using execRead_next.1 hx

/-- A step that ends a run is a core step, and is the termination test exactly when it ends in DONE. -/
theorem isCoreStep_of_run_ends (hrun : s.status = .run) (hs : step s = .next t) (ht : t.status ≠ .run) :
    isCoreStep s = true ∧ (t.status = .done ↔ s.progLen.toNat ≤ s.ip.toNat) := by
  rcases step_control hs with ⟨hc, h⟩ | ⟨-, rfl⟩ | kept
  · have hh : holds s = false := Bool.eq_false_iff.2 fun hh =>
      ht (eq_of_holds_of_coreStep (s := s.afterTurn) hh h ▸ hrun)
    have core_step (hr : s.rst = false) : isCoreStep s = true :=
      isCoreStep_iff.2 ⟨hc, hr, hrun, hh⟩
    rcases coreStep_effect h with rfl | ⟨hr, -, hp, rfl⟩ | ⟨⟨hr, -, hp⟩, he⟩
    · exact absurd hrun ht
    · exact ⟨core_step hr, fun _ => hp, fun _ => rfl⟩
    · have hfault : t.status = .fault := by
        cases he with
        | raised => rfl
        | store | moveLeft | moveRight | consume | emitCell | jump | fallThrough | hold =>
          exact absurd hrun ht
      exact ⟨core_step hr, iff_of_false (fun e => nomatch hfault.symm.trans e) (Nat.not_le.2 hp)⟩
  · exact absurd rfl ht
  · exact absurd (kept.status.trans hrun) ht

/-- A core step that leaves the machine running completes an opcode. -/
theorem completedOpcode_isSome (hc : isCoreStep s = true) (hs : step s = .next t)
    (ht : t.status = .run) : ∃ i, completedOpcode s = some i := by
  obtain ⟨hcore, hr, hrun, hh⟩ := isCoreStep_iff.1 hc
  rcases coreStep_next (step_of_core hcore ▸ hs) with
    ⟨hidle, -⟩ | ⟨-, -, ⟨-, rfl⟩ | ⟨hp, -, ⟨-, -, rfl⟩ | ⟨i, hw, -⟩⟩⟩
  · exact absurd hidle (by simp [State.afterTurn, hr, hrun])
  · cases ht
  · cases ht
  · exact ⟨i, completedOpcode_eq_some_iff.2 ⟨hcore, ⟨hr, hrun, hp⟩, hh, hw, t, hs, ht⟩⟩

/-- What a run that has ended in DONE or FAULT adds to the count of its completed opcodes. -/
def State.finalStep (s : State) : Nat := if s.status = .run then 0 else 1

@[simp] theorem State.finalStep_of_run (h : s.status = .run) : s.finalStep = 0 := if_pos h

@[simp] theorem State.finalStep_of_ended (h : s.status ≠ .run) : s.finalStep = 1 := if_neg h

/-- The law of one turn, which adds up along a run: a core step completes an opcode or ends the run. -/
theorem coreStep_count (hs : step s = .next t) (hn : s.nextIsReset = false) :
    (if isCoreStep s then 1 else 0) + s.finalStep =
      (completedOpcode s).toList.length + t.finalStep := by
  by_cases hrun : s.status = .run
  · by_cases ht : t.status = .run
    · cases hc : isCoreStep s with
      | true =>
        obtain ⟨i, hi⟩ := completedOpcode_isSome hc hs ht
        simp [hi, hrun, ht]
      | false => simp [completedOpcode_of_not_isCoreStep hc, hrun, ht]
    · simp [(isCoreStep_of_run_ends hrun hs ht).1, completedOpcode_of_run_ends hs ht, hrun, ht]
  · obtain ⟨hen, -, kept⟩ := terminalStatesAreLeftOnlyByReset s t hrun hs
    have hc : isCoreStep s = false := by simp [isCoreStep, hen]
    have ht : t.status ≠ .run := (kept hn).1 ▸ hrun
    simp [hc, completedOpcode_of_not_isCoreStep hc, hrun, ht]

/-- The law of a run without RESET (R151), from any state. -/
theorem coreSteps_count {k : Nat} (hn : s.noResetWithin k) (h : Host.Core.run core k s = .next t) :
    coreSteps k s + s.finalStep = (completedOpcodes k s).length + t.finalStep := by
  induction k generalizing s with
  | zero => simp [run_zero_next.1 h]
  | succ k ih =>
    obtain ⟨u, hs, hu⟩ := run_succ_next h
    obtain ⟨hfirst, hrest⟩ := noResetWithin_succ hn hs
    have one_turn := coreStep_count hs hfirst
    have the_rest := ih hrest hu
    rw [coreSteps_succ k hs, completedOpcodes_succ k hs, List.length_append]
    omega

/-- After the end of a run there are no core steps until RESET (R149). -/
theorem coreSteps_of_ended (k : Nat) (hrun : s.status ≠ .run) (hn : s.noResetWithin k) :
    coreSteps k s = 0 := by
  induction k generalizing s with
  | zero => rfl
  | succ k ih =>
    cases hs : step s with
    | next u =>
      obtain ⟨hfirst, hrest⟩ := noResetWithin_succ hn hs
      obtain ⟨hen, -, kept⟩ := terminalStatesAreLeftOnlyByReset s u hrun hs
      rw [coreSteps_succ k hs, ih ((kept hfirst).1 ▸ hrun) hrest]
      simp [isCoreStep, hen]
    | fault r => simp [coreSteps, hs]
    | refused r => simp [coreSteps, hs]

end StepCount

/-- Settles O55: the law of one turn added up along the run, with what a hold and the step that ends a run
are. -/
theorem runTakesOneCoreStepForEachOpcode : Obligations.RunTakesOneCoreStepForEachOpcode := by
  refine ⟨fun k s t hrun hn h => ?_, fun s hh => ?_, fun s i => completedOpcode_eq_some_iff,
    fun s t hrun hs ht => ?_⟩
  · have count := coreSteps_count hn h
    rw [State.finalStep_of_run hrun, Nat.add_zero] at count
    exact ⟨fun e => by simpa [e] using count, fun e => by simpa [e] using count,
      fun e => by simpa [e] using count⟩
  · have hc : isCoreStep s = false := by simp [isCoreStep, coreEnabled, hh]
    exact ⟨hc, completedOpcode_of_not_isCoreStep hc⟩
  · obtain ⟨hc, hdone⟩ := isCoreStep_of_run_ends hrun hs ht
    exact ⟨hc, completedOpcode_of_run_ends hs ht, hdone, fun k hn => coreSteps_of_ended k ht hn⟩

end Sys2Proof.Machine

/-! Cell arithmetic (41_cell_arithmetic.md, R160 to R163): the words of INC, DEC and ZERO, the data ALU, what a
store into the current cell leaves, and that ZERO does what the loop it replaces does (70_reset_and_hazards.md,
R294). -/

namespace Sys2Proof

/-! ### Words written as an opcode and an operand, and words that their format refuses -/

section Words

variable {w m : Word} {i : Instr}

/-- The fields of a word do not overlap, so that a word is packed by OR as well (R90). -/
theorem or_eq_packWord {op n : Nat} (hm : m.toNat = op * 2 ^ 28) (hn : n < 2 ^ 28) :
    m ||| BitVec.ofNat 32 n = packWord op n := by
  have := m.isLt
  apply BitVec.eq_of_toNat_eq
  rw [packWord_toNat _ _ (by omega), BitVec.toNat_or, BitVec.toNat_ofNat, hm,
    Nat.mod_eq_of_lt (hn.trans (by decide)), Nat.mod_eq_of_lt hn, Nat.mul_comm op,
    Nat.two_pow_add_eq_or_of_lt hn]

/-- A word written as the opcode OR the operand of a well-formed instruction decodes to it. -/
theorem decode_or {op : Nat} (hop : i.opcode = op) (hm : m.toNat = op * 2 ^ 28) (h : i.wellFormed = true) :
    decode (m ||| BitVec.ofNat 32 i.operand) = .instr i := by
  rw [or_eq_packWord hm (operand_fits h).1, ← hop]
  exact decode_encode h

/-- Format D8 refuses a word with a 1 in `w[27:8]` (R96 (b)). -/
theorem decode_eq_deltaField (hop : bits w 31 28 = 1 ∨ bits w 31 28 = 2)
    (hd : w.extractLsb' 8 20 ≠ 0) : decode w = .illegal .deltaField := by
  rw [extractLsb'_ne_zero_iff, ← bits_deltaField_eq] at hd
  unfold decode
  rcases hop with hop | hop <;> rw [hop] <;> exact if_neg hd

/-- Format N has one legal word for each opcode (R91, R96 (c)). -/
theorem decode_formatN (hi : i = .zero ∨ i = .read ∨ i = .write) (hop : bits w 31 28 = i.opcode) :
    decode w = if w = encode i then .instr i else .illegal .operandField := by
  have hd : decode w = decodeN i w := by
    unfold decode
    rw [hop]
    rcases hi with rfl | rfl | rfl <;> rfl
  have hw : w = encode i ↔ bits w 27 0 = 0 := by
    have hn : i.operand = 0 := by rcases hi with rfl | rfl | rfl <;> rfl
    refine ⟨fun e => ?_, fun e => ?_⟩
    · rw [e, encode, bits_packWord_operand _ _ (opcode_lt i), hn, Nat.zero_mod]
    · rw [encode, hn, ← hop, ← e, packWord_bits]
  simp only [hd, decodeN, hw]

end Words

end Sys2Proof

namespace Sys2Proof.Machine

/-! ### The data ALU -/

section Alu

variable (v : Byte)

theorem sub8_toNat {n : Nat} (hn : n < 256) : (sub8 v n).toNat = (v.toNat + 256 - n) % 256 := by
  have := sub8_toInt v n
  omega

theorem sub8_eq_add8 {n : Nat} (hn : n < 256) : sub8 v n = add8 v (256 - n) := by
  apply BitVec.eq_of_toNat_eq
  rw [sub8_toNat v hn, add8_toNat, Nat.add_sub_assoc hn.le]

@[simp] theorem add8_zero : add8 v 0 = v := by simp [add8_eq_add]

@[simp] theorem sub8_zero : sub8 v 0 = v := by simp [sub8_eq_sub]

/-- Below zero the subtraction does not wrap. -/
theorem sub8_one_toNat (h : v ≠ 0) : (sub8 v 1).toNat = v.toNat - 1 := by
  have hv : v.toNat ≠ 0 := fun e => h (BitVec.eq_of_toNat_eq e)
  have := v.isLt
  rw [sub8_toNat v (by decide)]
  omega

end Alu

/-- Settles O8: the ALU's functions by their values as numbers, and INC and DEC by what they store. -/
theorem cellAluWrapsModulo256 : Obligations.CellAluWrapsModulo256 := by
  refine ⟨fun v n hn => ⟨add8_toNat v n, sub8_toInt v n, fun _ => sub8_eq_add8 v hn⟩, add8_add8,
    fun v => ⟨add8_zero v, sub8_zero v⟩, by decide, fun s t n h => ?_⟩
  rcases h with h | h
  · obtain ⟨-, rfl⟩ := execInc_next.1 h
    exact ⟨rfl, rfl, rfl⟩
  · obtain ⟨-, rfl⟩ := execDec_next.1 h
    exact ⟨rfl, rfl, rfl⟩

/-! ### What a store into the current cell leaves -/

/-- From `s` to `t` nothing changes but the current cell and `IP`. -/
structure State.SameButCell (s t : State) : Prop where
  cells : sameCellsBut s.cursor.toNat s t
  fields : t = { s with tape := t.tape, ip := t.ip }

namespace State.SameButCell

variable {s t u : State}

theorem cursor (h : s.SameButCell t) : t.cursor = s.cursor := by rw [h.fields]

theorem trans (h : s.SameButCell t) (h' : t.SameButCell u) : s.SameButCell u := by
  refine ⟨fun b hb => (h'.cells b (h.cursor ▸ hb)).trans (h.cells b hb), h'.fields.trans ?_⟩
  exact congrArg (fun r : State => { r with tape := u.tape, ip := u.ip }) h.fields

theorem setIp (p : RomIndex) : s.SameButCell { s with ip := p } := ⟨fun _ _ => rfl, rfl⟩

theorem advance : s.SameButCell (Machine.advance s) := setIp _

theorem jumpTo (d : Nat) : s.SameButCell (Machine.jumpTo d s) := setIp _

theorem stored (x : Byte) : s.SameButCell (Machine.stored x s) :=
  ⟨fun b hb => Memory.read_write_ne _ _ b x hb, rfl⟩

end State.SameButCell

theorem execZero_eq_stored {s : State} (hc : s.cursor.toNat < s.cfg.tapeLen) :
    exec .zero s = .next (stored 0 s) := execZero_next.2 ⟨hc, rfl⟩

/-- An instruction that stores a byte leaves it in the current cell, advances `IP`, and changes nothing else. -/
theorem exists_stored {i : Instr} {s : State} {x : Byte} (h : exec i s = .next (stored x s)) :
    ∃ t, exec i s = .next t ∧ Memory.read t.tape s.cursor.toNat = x ∧ sameCellsBut s.cursor.toNat s t ∧
      t.ip = s.ip + 1 ∧ t = { s with tape := t.tape, ip := t.ip } :=
  have frame := State.SameButCell.stored (s := s) x
  ⟨_, h, tapeRead_stored x s, frame.cells, rfl, frame.fields⟩

/-- Settles O9: INC stores what the adder gives. -/
theorem incAddsToCurrentCell : Obligations.IncAddsToCurrentCell := by
  refine ⟨fun n hn => decode_or (i := .inc n) (op := 1) rfl rfl (decide_eq_true hn), fun w hop hd =>
    decode_eq_deltaField (.inl ((bits_opcode_eq w).trans (congrArg _ hop))) hd, fun s n hn hc => ?_⟩
  obtain ⟨t, ht, hcell, frame⟩ := exists_stored (execInc_eq_stored hc n)
  exact ⟨t, ht, hcell ▸ add8_toNat _ n, frame⟩

/-- Settles O10: DEC stores what the subtractor gives. -/
theorem decSubtractsFromCurrentCell : Obligations.DecSubtractsFromCurrentCell := by
  refine ⟨fun n hn => decode_or (i := .dec n) (op := 2) rfl rfl (decide_eq_true hn), fun w hop hd =>
    decode_eq_deltaField (.inr ((bits_opcode_eq w).trans (congrArg _ hop))) hd, fun s n hn hc => ?_⟩
  obtain ⟨t, ht, hcell, frame⟩ := exists_stored (execDec_eq_stored hc n)
  exact ⟨t, ht, hcell ▸ sub8_toNat _ hn, frame⟩

/-- Settles O11: ZERO stores 0, and its format has one legal word. -/
theorem zeroClearsCurrentCell : Obligations.ZeroClearsCurrentCell :=
  ⟨fun w hop => decode_formatN (i := .zero) (.inl rfl) ((bits_opcode_eq w).trans (congrArg _ hop)),
    fun _ hc => exists_stored (execZero_eq_stored hc)⟩

/-! ### The loop that ZERO replaces -/

section Mux

variable (v : Byte) (d : Nat) (s : State)

theorem jumpMux_forward : jumpMux .forward v d s = if v = 0 then jumpTo d s else advance s := by
  simp [jumpMux, jumpTaken, zeroDetect]

theorem jumpMux_backward : jumpMux .backward v d s = if v = 0 then advance s else jumpTo d s := by
  by_cases h : v = 0 <;> simp [jumpMux, jumpTaken, zeroDetect, h]

end Mux

/-- A core that runs undisturbed on a program with the loop of `[-]` at `k` to `k + 2` (R294). -/
structure State.HasZeroLoop (k : Nat) (s : State) : Prop where
  rst : s.rst = false
  status : s.status = .run
  schedule : s.schedule = []
  cursor : s.cursor.toNat < s.cfg.tapeLen
  progLen : s.progLen.toNat ≤ s.cfg.romDepth
  loopFits : k + 3 ≤ s.progLen.toNat
  jmpf : decode (Rom.read s.rom k) = .instr (.jmpf (k + 3))
  dec : decode (Rom.read s.rom (k + 1)) = .instr (.dec 1)
  jmpb : decode (Rom.read s.rom (k + 2)) = .instr (.jmpb k)

/-- In `n` steps the machine is past the loop, with 0 in the current cell and nothing else changed. -/
def State.LeavesZeroLoop (k n : Nat) (s : State) : Prop :=
  ∃ t, Host.Core.run core n s = .next t ∧ tapeRead t = 0 ∧ s.SameButCell t ∧ t.ip.toNat = k + 3

namespace State.HasZeroLoop

variable {k : Nat} {s t : State} (h : s.HasZeroLoop k)
include h

/-- What the loop's own steps change, the tape and `IP`, has no part in it. -/
theorem of_sameButCell (e : s.SameButCell t) : t.HasZeroLoop k := by
  rw [e.fields]
  exact { h with }

/-- Inside the loop a step runs the instruction at `IP`. -/
theorem step_eq {i : Instr} {p : Nat} (hip : s.ip.toNat = p) (hp : p < k + 3)
    (hw : decode (Rom.read s.rom p) = .instr i) : Machine.step s = exec i s := by
  have hcore : s.nextIsCore = true := by simp [State.nextIsCore, h.schedule]
  have hafter : s.afterTurn = s := by rw [State.afterTurn, h.schedule, List.tail_nil, ← h.schedule]; rfl
  have hfetch : s.fetches := ⟨h.rst, h.status, hip ▸ hp.trans_le h.loopFits⟩
  rw [stepRunsTheDecodedInstruction s i hcore hfetch h.progLen (hip ▸ hw), hafter]

/-- Inside the loop the advance does not wrap. -/
theorem toNat_ip_succ {p : Nat} (hip : s.ip.toNat = p) (hp : p < k + 3) : (s.ip + 1).toNat = p + 1 :=
  hip ▸ Machine.toNat_ip_succ (hip ▸ hp.trans_le h.loopFits)

/-- On a cell of 0 the loop is left at once. -/
theorem leaves_of_zero (hip : s.ip.toNat = k) (hz : tapeRead s = 0) : s.LeavesZeroLoop k 1 := by
  have hstep : Machine.step s = .next (Machine.jumpTo (k + 3) s) :=
    (h.step_eq hip (by omega) h.jmpf).trans
      (execJmpf_next.2 ⟨h.cursor, (jumpMux_forward ..).trans (if_pos hz)⟩)
  exact ⟨_, run_succ 0 hstep, hz, .jumpTo _, toNat_dest_of_decode (.inl h.jmpf)⟩

/-- On any other cell the loop's body is entered. -/
theorem step_jmpf_of_ne (hip : s.ip.toNat = k) (hz : tapeRead s ≠ 0) :
    Machine.step s = .next (Machine.advance s) :=
  (h.step_eq hip (by omega) h.jmpf).trans
    (execJmpf_next.2 ⟨h.cursor, (jumpMux_forward ..).trans (if_neg hz)⟩)

theorem step_dec (hip : s.ip.toNat = k + 1) :
    Machine.step s = .next (stored (sub8 (tapeRead s) 1) s) :=
  (h.step_eq hip (by omega) h.dec).trans (execDec_eq_stored h.cursor 1)

/-- The end of the loop's body leaves the loop on a cell of 0 and goes back to its start on any other. -/
theorem step_jmpb (hip : s.ip.toNat = k + 2) :
    ∃ t, Machine.step s = .next t ∧ tapeRead t = tapeRead s ∧ s.SameButCell t ∧
      t.ip.toNat = if tapeRead s = 0 then k + 3 else k := by
  have hstep := (h.step_eq hip (by omega) h.jmpb).trans
    (execJmpb_next.2 ⟨h.cursor, jumpMux_backward ..⟩)
  by_cases hz : tapeRead s = 0
  · rw [if_pos hz] at hstep ⊢
    exact ⟨_, hstep, rfl, .advance, h.toNat_ip_succ hip (by omega)⟩
  · rw [if_neg hz] at hstep ⊢
    exact ⟨_, hstep, rfl, .jumpTo k, toNat_dest_of_decode (.inr h.jmpb)⟩

/-- A round on a cell that is not 0 takes three steps, subtracts 1, and leaves the loop if that gives 0. -/
theorem run_round (hip : s.ip.toNat = k) (hz : tapeRead s ≠ 0) :
    ∃ t, Host.Core.run core 3 s = .next t ∧ tapeRead t = sub8 (tapeRead s) 1 ∧ s.SameButCell t ∧
      t.ip.toNat = if sub8 (tapeRead s) 1 = 0 then k + 3 else k := by
  have enter := h.step_jmpf_of_ne hip hz
  have hip1 := h.toNat_ip_succ hip (by omega)
  have h1 := h.of_sameButCell .advance
  have sub := h1.step_dec hip1
  have hip2 := h1.toNat_ip_succ hip1 (by omega)
  have h2 := h1.of_sameButCell (.stored (sub8 (tapeRead s) 1))
  obtain ⟨t, back, hcell, frame, hipt⟩ := h2.step_jmpb hip2
  rw [tapeRead_stored] at hcell hipt
  exact ⟨t, (run_succ 2 enter).trans ((run_succ 1 sub).trans (run_succ 0 back)), hcell,
    .trans .advance (.trans (.stored _) frame), hipt⟩

/-- By induction on the cell's value: a cell of `n + 1` takes `n + 1` rounds. -/
theorem leaves_of_succ {n : Nat} (hip : s.ip.toNat = k) (hn : (tapeRead s).toNat = n + 1) :
    s.LeavesZeroLoop k (3 * (n + 1)) := by
  induction n generalizing s with
  | zero =>
    have hz : tapeRead s ≠ 0 := fun e => by simp [e] at hn
    obtain ⟨t, hrun, hcell, frame, hipt⟩ := h.run_round hip hz
    have hx : sub8 (tapeRead s) 1 = 0 :=
      BitVec.eq_of_toNat_eq ((sub8_one_toNat _ hz).trans (by rw [hn]; rfl))
    exact ⟨t, hrun, hcell.trans hx, frame, hipt.trans (if_pos hx)⟩
  | succ n ih =>
    have hz : tapeRead s ≠ 0 := fun e => by simp [e] at hn
    obtain ⟨t, hrun, hcell, frame, hipt⟩ := h.run_round hip hz
    have hx : (sub8 (tapeRead s) 1).toNat = n + 1 := by rw [sub8_one_toNat _ hz, hn]; rfl
    have hx0 : sub8 (tapeRead s) 1 ≠ 0 := fun e => by simp [e] at hx
    obtain ⟨u, hrun', hcell', frame', hipu⟩ :=
      ih (h.of_sameButCell frame) (hipt.trans (if_neg hx0)) (hcell ▸ hx)
    refine ⟨u, ?_, hcell', frame.trans frame', hipu⟩
    rw [Nat.mul_succ, Nat.add_comm, run_add 3 _ hrun, hrun']

/-- The number of steps that the loop takes (R294). -/
theorem leaves (hip : s.ip.toNat = k) :
    s.LeavesZeroLoop k (if tapeRead s = 0 then 1 else 3 * (tapeRead s).toNat) := by
  split
  next hz => exact h.leaves_of_zero hip hz
  next hz =>
    obtain ⟨n, hn⟩ := Nat.exists_eq_succ_of_ne_zero fun e => hz (BitVec.eq_of_toNat_eq e)
    exact hn ▸ h.leaves_of_succ hip hn

end State.HasZeroLoop

/-- Settles O12: a cell of 0 leaves the loop at once, any other by induction on its value, one round for each
unit. -/
theorem zeroEqualsTheLoopItReplaces : Obligations.ZeroEqualsTheLoopItReplaces := by
  intro s k hr hrun hsched hc hrom hip hfit hjmpf hdec hjmpb
  have h : s.HasZeroLoop k := ⟨hr, hrun, hsched, hc, hrom, hfit, hjmpf, hdec, hjmpb⟩
  obtain ⟨t, ht, hcell, frame, hipt⟩ := h.leaves hip
  exact ⟨t, ht, frame.cursor ▸ hcell, frame.cells, hipt, frame.fields⟩

end Sys2Proof.Machine

/-! Cursor moves (42_cursor_moves.md, R180 to R183): the words of LEFT and RIGHT, that a move reaches its exact
target or faults and moves nothing, and that a run stays at a move that faults. -/

namespace Sys2Proof.Machine

/-! ### A move inside the tape and a move out of it -/

section Moves

variable {s : State} {n : Nat}

/-- An instruction that sends the cursor to a target the register can hold puts it there, advances `IP`, and
changes nothing else. -/
theorem exists_moved {i : Instr} {target : Int} {p : Nat} (htarget : target = p) (hp : p < 2 ^ 28)
    (h : exec i s = .next (advance (setCursor target s))) :
    ∃ t, exec i s = .next t ∧ t.cursor.toNat = p ∧ t.ip = s.ip + 1 ∧
      t = { s with cursor := t.cursor, ip := t.ip } := by
  have hcursor := cursorOf_toNat target (by omega) (by omega)
  exact ⟨_, h, Int.ofNat_inj.1 (hcursor.trans htarget), rfl, rfl⟩

theorem leftInBounds_iff_target (hc : s.cursor.toNat < s.cfg.tapeLen) : leftInBounds s n = true ↔
    0 ≤ leftTarget s.cursor n ∧ leftTarget s.cursor n ≤ (s.cfg.tapeLen : Int) - 1 := by
  rw [leftInBounds_iff, leftTarget]
  omega

theorem rightInBounds_iff_target : rightInBounds s n = true ↔
    0 ≤ rightTarget s.cursor n ∧ rightTarget s.cursor n ≤ (s.cfg.tapeLen : Int) - 1 := by
  rw [rightInBounds_iff, rightTarget]
  omega

/-- A checked move on a running machine reaches its target if that is in the tape, and otherwise faults with the
cursor as it was (R182). -/
theorem moveOr_exact {inBounds : Bool} {target : Int} (c : Cause) (hcfg : s.cfg.valid) (hrun : s.status = .run)
    (hb : inBounds = true ↔ 0 ≤ target ∧ target ≤ (s.cfg.tapeLen : Int) - 1) :
    (0 ≤ target ∧ target ≤ (s.cfg.tapeLen : Int) - 1 → (moveOr inBounds target c s).status = .run ∧
      ((moveOr inBounds target c s).cursor.toNat : Int) = target) ∧
    (¬ (0 ≤ target ∧ target ≤ (s.cfg.tapeLen : Int) - 1) →
      (moveOr inBounds target c s).status = .fault ∧ (moveOr inBounds target c s).cursor = s.cursor) := by
  rw [← hb]
  cases inBounds with
  | true =>
    obtain ⟨h0, hlast⟩ := hb.1 rfl
    obtain ⟨-, hmax, -⟩ := hcfg
    exact ⟨fun _ => ⟨hrun, cursorOf_toNat target h0 (by omega)⟩, fun h => absurd rfl h⟩
  | false => exact ⟨nofun, fun _ => ⟨rfl, rfl⟩⟩

end Moves

/-- Settles O14: the whole operand field is the count, and the target is not below 0 exactly where the count is
at most the cursor. -/
theorem leftMovesOrFaults : Obligations.LeftMovesOrFaults := by
  refine ⟨fun n hn => decode_or (i := .left n) (op := 3) rfl rfl (decide_eq_true hn),
    fun w hop => decode_of_fields ((bits_opcode_eq w).trans (congrArg _ hop)) (bits_operand_eq w) nofun,
    fun s n hn => ?_, fun s n hn => execLeft_of_gt hn⟩
  have htarget : leftTarget s.cursor n = (s.cursor.toNat - n : Nat) := (Int.ofNat_sub hn).symm
  exact exists_moved htarget (by omega) (execLeft_of_le hn)

/-- Settles O15: the whole operand field is the count, and a target in a tape of at most 2^28 cells fits the
register. -/
theorem rightMovesOrFaults : Obligations.RightMovesOrFaults := by
  refine ⟨fun n hn => decode_or (i := .right n) (op := 4) rfl rfl (decide_eq_true hn),
    fun w hop => decode_of_fields ((bits_opcode_eq w).trans (congrArg _ hop)) (bits_operand_eq w) nofun,
    fun s n ⟨hmin, hmax, _⟩ hn => ?_, fun s n ⟨hmin, _, _⟩ hn => execRight_of_ge (by omega)⟩
  have htarget : rightTarget s.cursor n = (s.cursor.toNat + n : Nat) := rfl
  exact exists_moved htarget (by omega) (execRight_of_lt (by omega))

/-- Settles O16: the bounds check of either move is that its integer target is in the tape. -/
theorem cursorMoveIsNeverWrappedOrClamped : Obligations.CursorMoveIsNeverWrappedOrClamped := by
  rintro s t n target hcfg hc hrun (⟨rfl, h⟩ | ⟨rfl, h⟩)
  · obtain rfl := Host.Outcome.next.inj h
    exact moveOr_exact .cursorLeftOob hcfg hrun (leftInBounds_iff_target hc)
  · obtain rfl := Host.Outcome.next.inj h
    exact moveOr_exact .cursorRightOob hcfg hrun rightInBounds_iff_target

/-! ### A run at a move that faults -/

section Eager

variable {s : State} (hsched : s.schedule = [])
include hsched

theorem step_of_schedule_nil : step s = coreStep s := by
  unfold step; rw [hsched]

/-- A core that has ended stays as it is for any number of turns (R149). -/
theorem run_of_ended (hrun : s.status ≠ .run) (k : Nat) : Host.Core.run core k s = .next s := by
  induction k with
  | zero => rfl
  | succ k ih => rw [run_succ k ((step_of_schedule_nil hsched).trans (coreStep_idle (.inr hrun))), ih]

/-- A running core at an instruction that faults is stopped there for any number of turns from one on. -/
theorem run_of_raiseFault {i : Instr} {c : Cause} (hf : s.fetches) (hrom : s.progLen.toNat ≤ s.cfg.romDepth)
    (hw : decode (Rom.read s.rom s.ip.toNat) = .instr i) (h : exec i s = .next (raiseFault c s)) (k : Nat) :
    Host.Core.run core (k + 1) s = .next (raiseFault c s) := by
  obtain ⟨hr, hrun, hp⟩ := hf
  have hstep : step s = .next (raiseFault c s) :=
    (step_of_schedule_nil hsched).trans ((coreStep_exec hr hrun hp (hp.trans_le hrom) hw).trans h)
  rw [run_succ k hstep]
  exact run_of_ended (s := raiseFault c s) hsched nofun k

end Eager

/-- Settles O17: the move itself faults, and in FAULT no turn of the core changes anything. -/
theorem eagerCheckStopsAtTheMove : Obligations.EagerCheckStopsAtTheMove := fun _ _ k hf hrom hsched =>
  ⟨fun ⟨hw, hn⟩ => run_of_raiseFault hsched hf hrom hw (execLeft_of_gt hn) k,
    fun ⟨hw, hn⟩ => run_of_raiseFault hsched hf hrom hw (execRight_of_ge hn) k⟩

end Sys2Proof.Machine

/-! Byte I/O (43_byte_io.md, R200 to R203): the words of READ and WRITE, the three cases of READ, and what either
leaves unchanged. -/

namespace Sys2Proof.Machine

/-! ### A byte taken in and a byte given out -/

section ByteIO

variable {s : State}

theorem execRead_of_inValid (hv : s.inValid = true) (hc : s.cursor.toNat < s.cfg.tapeLen) :
    execRead s = .next (advance (consumeInput (tapeWrite s.inData s))) :=
  execRead_next.2 (.inl ⟨hv, hc, rfl⟩)

theorem execRead_of_inEof (hv : s.inValid = false) (he : s.inEof = true) :
    execRead s = .next (raiseFault .inputExhausted s) :=
  execRead_next.2 (.inr (.inl ⟨hv, he, rfl⟩))

/-- READ holds with neither a byte nor end of input (R201). -/
theorem execRead_of_noInput (hv : s.inValid = false) (he : s.inEof = false) : execRead s = .next s :=
  execRead_next.2 (.inr (.inr ⟨hv, he, rfl⟩))

theorem execWrite_of_inTape (hc : s.cursor.toNat < s.cfg.tapeLen) :
    execWrite s = .next (advance (emit (tapeRead s) s)) :=
  execWrite_next.2 ⟨hc, rfl⟩

end ByteIO

/-- Settles O18: READ has one legal word, and each case of the input register is one case of its meaning. With a
byte waiting, end of input is not looked at. -/
theorem readConsumesOrFaultsOrHolds : Obligations.ReadConsumesOrFaultsOrHolds := by
  refine ⟨fun w hop => decode_formatN (i := .read) (.inr (.inl rfl)) ((bits_opcode_eq w).trans (congrArg _ hop)),
    fun s hv hc => ?_, fun s hv he => execRead_of_inEof hv he, fun s hv he => execRead_of_noInput hv he⟩
  have hcell := Memory.read_write_self s.tape s.cursor.toNat s.inData
  have hcells : sameCellsBut s.cursor.toNat s (tapeWrite s.inData s) :=
    fun b hb => Memory.read_write_ne _ _ b _ hb
  exact ⟨_, execRead_of_inValid hv hc, hcell, hcells, rfl, rfl, rfl, rfl⟩

/-- Settles O19: WRITE has one legal word, and emitting touches only the output register and the output stream. -/
theorem writeEmitsCurrentCell : Obligations.WriteEmitsCurrentCell :=
  ⟨fun w hop => decode_formatN (i := .write) (.inr (.inr rfl)) ((bits_opcode_eq w).trans (congrArg _ hop)),
    fun _ hc => ⟨_, execWrite_of_inTape hc, rfl, rfl, rfl, rfl⟩⟩

end Sys2Proof.Machine

/-! Conditional jumps (44_conditional_jump.md, R220 to R223): the words of JMPF and JMPB, where each goes, the
next `IP` of every instruction, and that a taken jump past the program ends the run. -/

namespace Sys2Proof.Machine

/-! ### A jump that is taken and one that is not -/

section Jumps

variable {s : State} {d : Nat} (hc : s.cursor.toNat < s.cfg.tapeLen)
include hc

theorem execJmpf_of_zero (hz : tapeRead s = 0) : exec (.jmpf d) s = .next (jumpTo d s) :=
  execJmpf_next.2 ⟨hc, (jumpMux_forward ..).trans (if_pos hz)⟩

theorem execJmpf_of_ne_zero (hz : tapeRead s ≠ 0) : exec (.jmpf d) s = .next (advance s) :=
  execJmpf_next.2 ⟨hc, (jumpMux_forward ..).trans (if_neg hz)⟩

theorem execJmpb_of_zero (hz : tapeRead s = 0) : exec (.jmpb d) s = .next (advance s) :=
  execJmpb_next.2 ⟨hc, (jumpMux_backward ..).trans (if_pos hz)⟩

theorem execJmpb_of_ne_zero (hz : tapeRead s ≠ 0) : exec (.jmpb d) s = .next (jumpTo d s) :=
  execJmpb_next.2 ⟨hc, (jumpMux_backward ..).trans (if_neg hz)⟩

end Jumps

/-- A jump to a destination that `IP` can hold loads it and changes nothing else. -/
theorem exists_jumped {i : Instr} {s : State} {d : Nat} (hd : d < 2 ^ 28)
    (h : exec i s = .next (jumpTo d s)) :
    ∃ t, exec i s = .next t ∧ t.ip.toNat = d ∧ t = { s with ip := t.ip } :=
  ⟨_, h, (BitVec.toNat_ofNat ..).trans (Nat.mod_eq_of_lt hd), rfl⟩

/-- Settles O22: the whole operand field is the destination, and the multiplexer takes it on a cell of 0. -/
theorem jmpfJumpsOnZero : Obligations.JmpfJumpsOnZero :=
  ⟨fun _ hd => decode_or (i := .jmpf _) (op := 8) rfl rfl (decide_eq_true hd),
    fun w hop => decode_of_fields ((bits_opcode_eq w).trans (congrArg _ hop)) (bits_operand_eq w) nofun,
    fun _ _ hd hc => ⟨fun hz => exists_jumped hd (execJmpf_of_zero hc hz), execJmpf_of_ne_zero hc⟩⟩

/-- Settles O23: the whole operand field is the destination, and the multiplexer takes it on any cell but 0. -/
theorem jmpbJumpsOnNonZero : Obligations.JmpbJumpsOnNonZero :=
  ⟨fun _ hd => decode_or (i := .jmpb _) (op := 9) rfl rfl (decide_eq_true hd),
    fun w hop => decode_of_fields ((bits_opcode_eq w).trans (congrArg _ hop)) (bits_operand_eq w) nofun,
    fun _ _ hd hc => ⟨fun hz => exists_jumped hd (execJmpb_of_ne_zero hc hz), execJmpb_of_zero hc⟩⟩

/-! ### The next `IP` of every instruction -/

section Multiplexer

variable {i : Instr} {s t : State}

/-- What the multiplexer selects for an instruction that completes (R222). -/
def nextIp (i : Instr) (s : State) : RomIndex :=
  match i with
  | .jmpf d => if tapeRead s = 0 then BitVec.ofNat 28 d else s.ip + 1
  | .jmpb d => if tapeRead s ≠ 0 then BitVec.ofNat 28 d else s.ip + 1
  | _ => s.ip + 1

theorem jumpMux_forward_ip (d : Nat) : (jumpMux .forward (tapeRead s) d s).ip = nextIp (.jmpf d) s := by
  rw [jumpMux_forward]
  exact apply_ite State.ip ..

theorem jumpMux_backward_ip (d : Nat) : (jumpMux .backward (tapeRead s) d s).ip = nextIp (.jmpb d) s := by
  rw [jumpMux_backward, ← ite_not]
  exact apply_ite State.ip ..

theorem jumpMux_status (dir : Direction) (v : Byte) (d : Nat) : (jumpMux dir v d s).status = s.status := by
  rcases jumpMux_cases (s := s) (n := d) dir v with e | e <;> rw [e] <;> rfl

/-- A checked move advances with the status kept, or it faults. -/
theorem moveOr_advances_or_faults (inBounds : Bool) (target : Int) (c : Cause) :
    ((moveOr inBounds target c s).status = s.status ∧ (moveOr inBounds target c s).ip = s.ip + 1) ∨
    ∃ c', moveOr inBounds target c s = raiseFault c' s := by
  cases inBounds with
  | true => exact .inl ⟨rfl, rfl⟩
  | false => exact .inr ⟨c, rfl⟩

/-- The three ways an instruction can end: it completes, it faults, or it is a READ that holds. -/
theorem exec_completes_or_faults_or_holds (h : exec i s = .next t) :
    (t.status = s.status ∧ t.ip = nextIp i s) ∨ (∃ c, t = raiseFault c s) ∨
    (i = .read ∧ s.inValid = false ∧ t = s) := by
  cases i with
  | inc n => obtain ⟨-, rfl⟩ := execInc_next.1 h; exact .inl ⟨rfl, rfl⟩
  | dec n => obtain ⟨-, rfl⟩ := execDec_next.1 h; exact .inl ⟨rfl, rfl⟩
  | zero => obtain ⟨-, rfl⟩ := execZero_next.1 h; exact .inl ⟨rfl, rfl⟩
  | write => obtain ⟨-, rfl⟩ := execWrite_next.1 h; exact .inl ⟨rfl, rfl⟩
  | left n =>
    obtain rfl := Host.Outcome.next.inj h
    exact (moveOr_advances_or_faults ..).imp_right .inl
  | right n =>
    obtain rfl := Host.Outcome.next.inj h
    exact (moveOr_advances_or_faults ..).imp_right .inl
  | read =>
    rcases execRead_next.1 h with ⟨-, -, rfl⟩ | ⟨-, -, rfl⟩ | ⟨hv, -, rfl⟩
    · exact .inl ⟨rfl, rfl⟩
    · exact .inr (.inl ⟨_, rfl⟩)
    · exact .inr (.inr ⟨rfl, hv, rfl⟩)
  | jmpf d => obtain ⟨-, rfl⟩ := execJmpf_next.1 h; exact .inl ⟨jumpMux_status .., jumpMux_forward_ip d⟩
  | jmpb d => obtain ⟨-, rfl⟩ := execJmpb_next.1 h; exact .inl ⟨jumpMux_status .., jumpMux_backward_ip d⟩

end Multiplexer

/-- Settles O24: each way an instruction can end has its own next `IP`, and the status tells them apart. -/
theorem nextIpMultiplexer : Obligations.NextIpMultiplexer := by
  intro i s t hrun h
  rcases exec_completes_or_faults_or_holds h with ⟨hstatus, hip⟩ | ⟨c, rfl⟩ | ⟨hi, hv, rfl⟩
  · exact ⟨fun hf => (nomatch hf.symm.trans (hstatus.trans hrun)), fun _ _ => hip⟩
  · exact ⟨fun _ => rfl, nofun⟩
  · exact ⟨fun _ => rfl, fun _ hn => absurd ⟨hi, hv⟩ hn⟩

/-! ### A jump past the end of the program -/

/-- A running core that jumps to an `IP` at or past `PROG_LEN` terminates there (R141). -/
theorem run_two_of_jump_past_end {i : Instr} {s : State} {d : Nat} (hf : s.fetches)
    (hrom : s.progLen.toNat ≤ s.cfg.romDepth) (hsched : s.schedule = [])
    (hw : decode (Rom.read s.rom s.ip.toNat) = .instr i) (h : exec i s = .next (jumpTo d s))
    (hpast : s.progLen.toNat ≤ (BitVec.ofNat 28 d).toNat) :
    Host.Core.run core 2 s = .next (finish (jumpTo d s)) := by
  obtain ⟨hr, hrun, hp⟩ := hf
  have jump : step s = .next (jumpTo d s) :=
    (step_of_schedule_nil hsched).trans ((coreStep_exec hr hrun hp (hp.trans_le hrom) hw).trans h)
  have terminate : step (jumpTo d s) = .next (finish (jumpTo d s)) :=
    (step_of_schedule_nil (s := jumpTo d s) hsched).trans (coreStep_finish (s := jumpTo d s) hr hrun hpast)
  exact (run_succ 1 jump).trans (run_succ 0 terminate)

/-- Settles O26: the jump loads the destination, which a decoded word keeps within 28 bits, and the termination
test of the next step comes before any fetch. -/
theorem jumpPastTheEndTerminates : Obligations.JumpPastTheEndTerminates := by
  intro s d hf hrom hsched hc hpast htaken
  have hdest : (BitVec.ofNat 28 d).toNat = d :=
    toNat_dest_of_decode (htaken.imp And.left And.left)
  refine ⟨hdest ▸ (BitVec.ofNat 28 d).isLt, ?_⟩
  rcases htaken with ⟨hw, hz⟩ | ⟨hw, hz⟩
  · exact run_two_of_jump_past_end hf hrom hsched hw (execJmpf_of_zero hc hz) (hdest.symm ▸ hpast)
  · exact run_two_of_jump_past_end hf hrom hsched hw (execJmpb_of_ne_zero hc hz) (hdest.symm ▸ hpast)

end Sys2Proof.Machine

/-! Faults, and what the host does and sees (60_exceptions.md, R241 to R262): which cause each word raises, that a
fault writes only its registers, the order of a core step's tests, the host's moves and the readback. -/

namespace Sys2Proof.Machine

/-! ### The cause of a fetch -/

/-- The cause that an instruction raises, NONE where it raises none (R241, R242). -/
def instrCause (i : Instr) (s : State) : Cause :=
  match i with
  | .left n => if leftInBounds s n then .none else .cursorLeftOob
  | .right n => if rightInBounds s n then .none else .cursorRightOob
  | .read => if s.inValid = false ∧ s.inEof = true then .inputExhausted else .none
  | _ => .none

/-- The cause that the word at `IP` raises, NONE where it raises none. -/
def fetchCause (s : State) : Cause :=
  match decode (fetchWord s) with
  | .instr i => instrCause i s
  | .illegal _ => .illegalInstruction

/-- What a cause does to the fault registers: NONE leaves `STATE`, `CAUSE` and `FAULT_IP`, and any other cause is
raised, which changes nothing else (R245). -/
inductive FaultsWith (s : State) : Cause → State → Prop
  | kept {t : State} (status : t.status = s.status) (cause : t.cause = s.cause)
    (faultIp : t.faultIp = s.faultIp) : FaultsWith s .none t
  | raised (c : Cause) (h : c ≠ .none) : FaultsWith s c (raiseFault c s)

namespace FaultsWith

variable {s t : State} {c : Cause} (h : FaultsWith s c t)
include h

theorem keeps_of_none (hc : c = .none) : t.status = s.status ∧ t.cause = s.cause ∧ t.faultIp = s.faultIp := by
  cases h with
  | kept hs hcause hip => exact ⟨hs, hcause, hip⟩
  | raised _ hne => exact absurd hc hne

theorem cause_eq (hs : s.cause = .none) : t.cause = c := by
  cases h with
  | kept _ hcause _ => exact hcause.trans hs
  | raised => rfl

theorem eq_raiseFault (hs : s.status ≠ .fault) (ht : t.status = .fault) : c ≠ .none ∧ t = raiseFault c s := by
  cases h with
  | kept hstatus _ _ => exact absurd (hstatus.symm.trans ht) hs
  | raised _ hne => exact ⟨hne, rfl⟩

end FaultsWith

section Causes

variable {i : Instr} {s t : State}

/-- A checked cursor move raises its cause exactly out of bounds. -/
theorem moveOr_faultsWith (inBounds : Bool) (target : Int) {c : Cause} (hc : c ≠ .none) :
    FaultsWith s (if inBounds then .none else c) (moveOr inBounds target c s) := by
  cases inBounds with
  | true => exact .kept rfl rfl rfl
  | false => exact .raised c hc

theorem exec_faultsWith (h : exec i s = .next t) : FaultsWith s (instrCause i s) t := by
  have frame := (eachInstructionKeepsItsFrame i s t h).2
  cases i with
  | inc n | dec n | zero | write | jmpf d | jmpb d =>
    exact .kept (congrArg State.status frame :) (congrArg State.cause frame :) (congrArg State.faultIp frame :)
  | left n => exact Host.Outcome.next.inj h ▸ moveOr_faultsWith _ _ nofun
  | right n => exact Host.Outcome.next.inj h ▸ moveOr_faultsWith _ _ nofun
  | read =>
    rcases execRead_next.1 h with ⟨hv, -, rfl⟩ | ⟨hv, he, rfl⟩ | ⟨hv, he, rfl⟩
    · simp only [instrCause, hv]; exact .kept rfl rfl rfl
    · simp only [instrCause, hv, he]; exact .raised _ nofun
    · simp only [instrCause, hv, he]; exact .kept rfl rfl rfl

theorem fetchCause_of_instr (hw : decode (fetchWord s) = .instr i) : fetchCause s = instrCause i s := by
  simp [fetchCause, hw]

theorem fetchCause_of_illegal {why : IllegalWord} (hw : decode (fetchWord s) = .illegal why) :
    fetchCause s = .illegalInstruction := by
  simp [fetchCause, hw]

theorem fetchCause_eq_cursorLeftOob_iff : fetchCause s = .cursorLeftOob ↔
    ∃ n, decode (fetchWord s) = .instr (.left n) ∧ s.cursor.toNat < n := by
  cases hw : decode (fetchWord s) with
  | illegal why => simp [fetchCause_of_illegal hw]
  | instr i => cases i <;> simp [fetchCause_of_instr hw, instrCause, ite_eq_iff, leftInBounds_iff]

theorem fetchCause_eq_cursorRightOob_iff : fetchCause s = .cursorRightOob ↔
    ∃ n, decode (fetchWord s) = .instr (.right n) ∧ s.cfg.tapeLen ≤ s.cursor.toNat + n := by
  cases hw : decode (fetchWord s) with
  | illegal why => simp [fetchCause_of_illegal hw]
  | instr i => cases i <;> simp [fetchCause_of_instr hw, instrCause, ite_eq_iff, rightInBounds_iff]

theorem fetchCause_eq_inputExhausted_iff : fetchCause s = .inputExhausted ↔
    decode (fetchWord s) = .instr .read ∧ s.inValid = false ∧ s.inEof = true := by
  cases hw : decode (fetchWord s) with
  | illegal why => simp [fetchCause_of_illegal hw]
  | instr i => cases i <;> simp [fetchCause_of_instr hw, instrCause, ite_eq_iff]

theorem fetchCause_eq_illegalInstruction_iff : fetchCause s = .illegalInstruction ↔
    ∃ why, decode (fetchWord s) = .illegal why := by
  cases hw : decode (fetchWord s) with
  | illegal why => simp [fetchCause_of_illegal hw]
  | instr i => cases i <;> simp [fetchCause_of_instr hw, instrCause, ite_eq_iff]

/-- A core turn that fetches raises the cause of its word. -/
theorem coreStep_faultsWith (hf : s.fetches) (h : coreStep s = .next t) : FaultsWith s (fetchCause s) t := by
  obtain ⟨hr, hrun, hp⟩ := hf
  rcases coreStep_next h with ⟨hidle, -⟩ | ⟨-, -, ⟨hend, -⟩ | ⟨-, -, ⟨why, hw, rfl⟩ | ⟨i, hw, he⟩⟩⟩
  · exact absurd hidle (by simp [hr, hrun])
  · exact absurd hp (Nat.not_lt.2 hend)
  · rw [fetchCause_of_illegal hw]
    exact .raised _ nofun
  · rw [fetchCause_of_instr hw]
    exact exec_faultsWith he

/-- A core turn that ends in FAULT fetched, and raised a cause (R245). -/
theorem coreStep_raises (h : coreStep s = .next t) (hs : s.status ≠ .fault) (ht : t.status = .fault) :
    s.fetches ∧ ∃ c, c ≠ .none ∧ t = raiseFault c s := by
  rcases coreStep_effect h with rfl | ⟨-, -, -, rfl⟩ | ⟨hf, -⟩
  · exact absurd ht hs
  · cases ht
  · exact ⟨hf, _, (coreStep_faultsWith hf h).eq_raiseFault hs ht⟩

end Causes

/-- Settles O34: such an instruction completes, and the cause it raises is NONE. -/
theorem arithmeticWriteAndJumpsNeverFault : Obligations.ArithmeticWriteAndJumpsNeverFault := by
  intro i s hc hleft hright hread
  have no_cause : instrCause i s = .none := by
    cases i with
    | left n => exact absurd rfl (hleft n)
    | right n => exact absurd rfl (hright n)
    | read => exact absurd rfl hread
    | inc n | dec n | zero | write | jmpf d | jmpb d => rfl
  obtain ⟨t, ht⟩ := exec_answers_next hc i
  exact ⟨t, ht, (exec_faultsWith ht).keeps_of_none no_cause⟩

/-- Settles O32: only a core turn that fetches reaches FAULT, and it does so by raising a cause. -/
theorem faultsArePrecise : Obligations.FaultsArePrecise := by
  intro s t _ hs hstep ht
  rcases step_control hstep with ⟨hc, h⟩ | ⟨-, rfl⟩ | kept
  · obtain ⟨hf, c, hne, rfl⟩ := coreStep_raises (s := s.afterTurn) h hs ht
    exact ⟨hc, hf, ⟨c, hne, rfl⟩, rfl, hf.2.2, by simp [coreEnabled]⟩
  · cases ht
  · exact absurd (kept.status.symm.trans ht) hs

/-! ### The order of the tests -/

/-- Settles O35: the tests of the cycle in their order, then those of the three instructions that can fault. -/
theorem testsAreMadeInOrder : Obligations.TestsAreMadeInOrder := by
  intro s hr hrun hrom hc
  split
  · next hend => exact coreStep_finish hr hrun hend
  · next hend =>
    have hp := Nat.lt_of_not_le hend
    have fetched {i : Instr} (hw : decode (fetchWord s) = .instr i) : coreStep s = exec i s :=
      coreStep_exec hr hrun hp (hp.trans_le hrom) hw
    split
    · next why hw => exact coreStep_illegal hr hrun hp (hp.trans_le hrom) hw
    · next n hw =>
      rw [fetched hw]
      split
      · next hn => exact execLeft_of_gt hn
      · rfl
    · next n hw =>
      rw [fetched hw]
      split
      · next hn => exact execRight_of_ge hn
      · rfl
    · next hw =>
      rw [fetched hw]
      split
      · next hv => exact execRead_of_inValid hv hc
      · next hv =>
        have hv := Bool.eq_false_iff.2 hv
        split
        · next he => exact execRead_of_inEof hv he
        · next he => exact execRead_of_noInput hv (Bool.eq_false_iff.2 he)
    · next i _ _ _ hw => exact fetched hw

/-! ### The host's moves -/

/-- Settles O50: no host move but RESET touches the control state (`moveEffect_sameControl`). -/
theorem hostNeverChangesControlFlow : Obligations.HostNeverChangesControlFlow := by
  intro m s t h hm
  obtain ⟨-, rfl⟩ := hostStep_next.1 h
  obtain ⟨hip, hcursor, htape, hstatus, hcause, hfaultIp, hout, houts, hins⟩ :=
    moveEffect_sameControl (s := s) hm
  exact ⟨hip, hcursor, htape, hstatus, hcause, hfaultIp, hout, houts, hins⟩

/-! ### What the ports show -/

section Codes

variable {s : State}

/-- No two causes have the same code. -/
theorem causeCode_injective : Function.Injective causeCode := by
  intro c d h
  cases c <;> cases d <;> revert h <;> decide

/-- The `cause` port shows the code of a cause exactly when `CAUSE` holds it. -/
theorem portCause_eq_iff (c : Cause) : portCause s = causeCode c ↔ s.cause = c :=
  causeCode_injective.eq_iff

theorem portState_eq_iff : (portState s = 0 ↔ s.status = .run) ∧ (portState s = 1 ↔ s.status = .done) ∧
    (portState s = 2 ↔ s.status = .fault) := by
  unfold portState
  cases s.status <;> decide

/-- Every index of the tape fits `CUR_W` bits (00_scope.md R5). -/
theorem lt_two_pow_curW {a : Nat} {cfg : Config} (ha : a < cfg.tapeLen) : a < 2 ^ curW cfg :=
  (Nat.le_sub_one_of_lt ha).trans_lt Nat.lt_log2_self

theorem portCursor_toNat (hc : s.cursor.toNat < s.cfg.tapeLen) : (portCursor s).toNat = s.cursor.toNat := by
  rw [portCursor, BitVec.toNat_setWidth]
  exact Nat.mod_eq_of_lt (lt_two_pow_curW hc)

/-- The readback shows the cell where it is valid (R262). -/
theorem portRbData_of_ended {a : TapeIndex} (hr : s.rst = false) (hs : s.status ≠ .run)
    (ha : a.toNat < s.cfg.tapeLen) : portRbData a s = Memory.read s.tape a.toNat :=
  if_pos (by simp [readbackValid, hr, hs, ha])

end Codes

/-- Settles O33: the turn leaves in `CAUSE` the cause of the fetched word, since a legal running machine has none
before. -/
theorem causeCodesNameTheirConditions : Obligations.CauseCodesNameTheirConditions := by
  intro s t hinv hf h
  have raises := coreStep_faultsWith hf h
  obtain ⟨-, hrun, -⟩ := hf
  have hcause : t.cause = fetchCause s := raises.cause_eq (by simpa [hrun] using hinv.cause)
  have code {c : Cause} : portCause t = causeCode c ↔ fetchCause s = c := hcause ▸ portCause_eq_iff c
  have none_iff : t.cause = .none ↔ t.status ≠ .fault := (not_iff_comm.1 (hinv.coreStep h).cause.symm).symm
  refine ⟨code.trans fetchCause_eq_cursorLeftOob_iff, code.trans (fetchCause_eq_cursorRightOob_iff.trans ?_),
    code.trans fetchCause_eq_inputExhausted_iff, code.trans fetchCause_eq_illegalInstruction_iff,
    (portCause_eq_iff .none).trans none_iff, fun ht => ?_⟩
  · obtain ⟨hmin, -, -⟩ := hinv.config
    exact exists_congr fun n => and_congr_right fun _ => by omega
  · obtain ⟨-, rfl⟩ := raises.eq_raiseFault (by simp [hrun]) ht
    exact ⟨rfl, rfl, rfl, rfl⟩

/-- Settles O49: in DONE and FAULT the readback is valid on every index of the tape, each code is one register
value's, and a cursor in the tape fits the port. -/
theorem readbackShowsTheTapeAfterTheRun : Obligations.ReadbackShowsTheTapeAfterTheRun := by
  refine ⟨fun s a hr hs ha => portRbData_of_ended hr ?_ ha, fun s => ?_, fun s a ha => ?_⟩
  · rcases hs with hs | hs <;> simp [hs]
  · obtain ⟨hrun, hdone, hfault⟩ := portState_eq_iff (s := s)
    exact ⟨rfl, rfl, fun h => portCursor_toNat h.cursor, hrun, hdone, hfault, portCause_eq_iff .none,
      portCause_eq_iff .cursorLeftOob, portCause_eq_iff .cursorRightOob, portCause_eq_iff .inputExhausted,
      portCause_eq_iff .illegalInstruction⟩
  · exact hostStep_next.2 ⟨decide_eq_true ha, rfl⟩

end Sys2Proof.Machine

/-! Reset, and the loading of a program (70_reset_and_hazards.md, R280 to R283): what the host's RESET leaves, when
the two load ports have an effect, and that the boot sequence loads exactly its image. -/

namespace Sys2Proof.Machine

/-! ### RESET -/

/-- Settles O44: RESET is always enabled, and while `rst` = 1 the core has no step. -/
theorem resetMoveSetsEveryResetValue : Obligations.ResetMoveSetsEveryResetValue := fun s rest hs =>
  ⟨resetAll (setSchedule rest s), step_of_moveEnabled hs rfl, rfl, rfl, rfl, Memory.read_nil, rfl, rfl, rfl, rfl, rfl,
    rfl, rfl, rfl, rfl, rfl, rfl, by simp [coreEnabled]⟩

/-! ### The load ports -/

section LoadPorts

variable {s : State} {a n : RomIndex} {w : Word}

@[simp] theorem moveEnabled_loadWord : moveEnabled (.loadWord a w) s = true ↔ s.rst = true := Iff.rfl

@[simp] theorem moveEnabled_loadProgLen :
    moveEnabled (.loadProgLen n) s = true ↔ s.rst = true ∧ n.toNat ≤ s.cfg.romDepth := by
  simp [moveEnabled]

theorem romPort_of_lt (hr : s.rst = true) (ha : a.toNat < s.cfg.romDepth) :
    romPort a w s = { s with rom := Rom.write s.rom a.toNat w } := if_pos (by simp [hr, ha])

theorem romPort_of_ge (ha : s.cfg.romDepth ≤ a.toNat) : romPort a w s = s := if_neg (by simp [ha])

theorem romPort_of_not_rst (hr : s.rst = false) : romPort a w s = s := if_neg (by simp [hr])

theorem progLenPort_of_rst (hr : s.rst = true) : progLenPort n s = { s with progLen := n } := if_pos hr

theorem progLenPort_of_not_rst (hr : s.rst = false) : progLenPort n s = s := if_neg (by simp [hr])

/-- The ROM load port writes no register and no word but the addressed one. -/
theorem romPort_frame : romPort a w s = { s with rom := (romPort a w s).rom } ∧
    ∀ b, b ≠ a.toNat → Rom.read (romPort a w s).rom b = Rom.read s.rom b := by
  unfold romPort
  split
  · exact ⟨rfl, fun b hb => Rom.read_write_ne _ _ _ _ hb⟩
  · exact ⟨rfl, fun _ _ => rfl⟩

/-- The turn of a load below `ROM_DEPTH` writes its word and takes its move off the schedule. -/
theorem step_loadWord {rest : List Turn} (hs : s.schedule = .host (.loadWord a w) :: rest) (hr : s.rst = true)
    (ha : a.toNat < s.cfg.romDepth) :
    step s = .next { s with rom := Rom.write s.rom a.toNat w, schedule := rest } :=
  (step_of_moveEnabled hs hr).trans (congrArg _ (romPort_of_lt (s := setSchedule rest s) hr ha))

end LoadPorts

/-- Settles O47: each load move has a next state exactly where it is enabled, which is its port's effect. -/
theorem loadingWorksOnlyUnderReset : Obligations.LoadingWorksOnlyUnderReset := by
  intro s a n w
  refine ⟨fun hr => ⟨romPort a w s, hostStep_next.2 ⟨hr, rfl⟩, fun ha => ?_, romPort_of_ge, romPort_frame.2,
    romPort_frame.1⟩, fun hr hn => ?_, fun _ hn t h => ?_, fun hr => ?_⟩
  · rw [romPort_of_lt hr ha]
    exact Rom.read_write_self ..
  · exact hostStep_next.2 ⟨moveEnabled_loadProgLen.2 ⟨hr, hn⟩, progLenPort_of_rst hr⟩
  · obtain ⟨-, hle⟩ := moveEnabled_loadProgLen.1 (hostStep_next.1 h).1
    omega
  · refine ⟨romPort_of_not_rst hr, progLenPort_of_not_rst hr, fun t h => ?_, fun t h => ?_⟩ <;>
      simp [hostStep_next, hr] at h

/-! ### An image written into the ROM -/

/-- The ROM with the words of a list written from an index on, one after the other. -/
def Rom.load (m : Rom) : Nat → List Word → Rom
  | _, [] => m
  | k, w :: ws => Rom.load (Rom.write m k w) (k + 1) ws

section Load

variable {ws : List Word}

theorem Rom.read_load_of_lt {m : Rom} {k a : Nat} (h : a < k) : Rom.read (m.load k ws) a = Rom.read m a := by
  induction ws generalizing m k with
  | nil => rfl
  | cons w ws ih => exact (ih (Nat.lt_succ_of_lt h)).trans (Rom.read_write_ne _ _ _ _ h.ne)

theorem Rom.read_load {m : Rom} {k j : Nat} (h : j < ws.length) : Rom.read (m.load k ws) (k + j) = ws[j] := by
  induction ws generalizing m k j with
  | nil => nomatch h
  | cons w ws ih =>
    cases j with
    | zero => exact (Rom.read_load_of_lt k.lt_succ_self).trans (Rom.read_write_self ..)
    | succ j =>
      rw [← Nat.add_assoc, Nat.add_right_comm]
      exact ih (Nat.lt_of_succ_lt_succ h)

/-- Under `rst` = 1 the load moves of a list that fits the ROM write it, and nothing else (R281, R283 (2)). -/
theorem run_loadMoves {s : State} {k : Nat} {rest : List Turn} (hdepth : s.cfg.romDepth ≤ 2 ^ 28 - 1)
    (hr : s.rst = true) (hs : s.schedule = loadMoves k ws ++ rest) (hk : k + ws.length ≤ s.cfg.romDepth) :
    Host.Core.run core ws.length s = .next { s with rom := s.rom.load k ws, schedule := rest } := by
  induction ws generalizing s k with
  | nil =>
    obtain rfl : s.schedule = rest := hs
    rfl
  | cons w ws ih =>
    rw [List.length_cons] at hk
    have hindex : (BitVec.ofNat 28 k).toNat = k := Nat.mod_eq_of_lt (by omega)
    have hstep := step_loadWord hs hr (by omega)
    rw [hindex] at hstep
    exact (run_succ ws.length hstep).trans (ih hdepth hr rfl ((k.add_right_comm 1 _).trans_le hk))

end Load

/-! ### The boot sequence -/

/-- The last two turns of the boot sequence (R283 (3), (4)). -/
def closingMoves (image : List Word) : List Turn :=
  [.host (.loadProgLen (BitVec.ofNat 28 image.length)), .host .releaseReset]

/-- The machine after RESET and an image's load moves, with the turns still to come. -/
def imageLoaded (image : List Word) (ts : List Turn) (s : State) : State :=
  { resetAll (setSchedule ts s) with rom := s.rom.load 0 image }

/-- The machine at its entry point: the image and its length loaded, `rst` released. -/
def booted (image : List Word) (s : State) : State :=
  releaseReset (progLenPort (BitVec.ofNat 28 image.length) (imageLoaded image [] s))

@[simp] theorem booted_rom (image : List Word) (s : State) : (booted image s).rom = s.rom.load 0 image := rfl

/-- The host's turn of a run: an enabled move takes effect and leaves the schedule. -/
theorem run_succ_of_moveEnabled {s : State} {m : HostMove} {rest : List Turn} (k : Nat)
    (hs : s.schedule = .host m :: rest) (hen : moveEnabled m s = true) :
    Host.Core.run core (k + 1) s = Host.Core.run core k (moveEffect m (setSchedule rest s)) :=
  run_succ k (step_of_moveEnabled hs hen)

/-- The boot sequence leads to `booted`: RESET, the load moves, `PROG_LEN`, the release, in the order of R283. -/
theorem run_bootSchedule {s : State} {image : List Word} (hdepth : s.cfg.romDepth ≤ 2 ^ 28 - 1)
    (hfit : image.length ≤ s.cfg.romDepth) :
    Host.Core.run core (image.length + 3) { s with schedule := bootSchedule image } = .next (booted image s) :=
  have hlen : (BitVec.ofNat 28 image.length).toNat = image.length := Nat.mod_eq_of_lt (by omega)
  calc
    _ = Host.Core.run core (image.length + 2) (resetAll (setSchedule (loadMoves 0 image ++ closingMoves image) s)) :=
      run_succ_of_moveEnabled (s := { s with schedule := bootSchedule image }) (m := .assertReset) _ rfl rfl
    _ = Host.Core.run core 2 (imageLoaded image (closingMoves image) s) :=
      run_add image.length 2 (run_loadMoves hdepth rfl rfl ((Nat.zero_add _).trans_le hfit))
    _ = Host.Core.run core 1 (progLenPort (BitVec.ofNat 28 image.length) (imageLoaded image [.host .releaseReset] s)) :=
      run_succ_of_moveEnabled (s := imageLoaded image _ s) 1 rfl
        (moveEnabled_loadProgLen.2 ⟨rfl, hlen.trans_le hfit⟩)
    _ = .next (booted image s) :=
      run_succ_of_moveEnabled (s := progLenPort _ (imageLoaded image _ s)) (m := .releaseReset) 0 rfl rfl

/-- Settles O48: the boot sequence leads to `booted`, whose `PROG_LEN` is exact because the image fits the ROM. -/
theorem bootLoadsTheImage : Obligations.BootLoadsTheImage := by
  intro s image ⟨_, _, hdepth⟩ hfit
  have hwords : ∀ (k : Nat) (hk : k < image.length), Rom.read (booted image s).rom k = image[k] := fun k hk => by
    simpa using Rom.read_load (m := s.rom) (k := 0) hk
  exact ⟨booted image s, run_bootSchedule hdepth hfit, hwords, Nat.mod_eq_of_lt (by omega), rfl, rfl, rfl, rfl,
    Memory.read_nil, rfl, rfl, rfl, rfl, rfl, rfl, rfl⟩

end Sys2Proof.Machine

/-! When the core has a step, and what the host sees of it (10_state.md R34 to R37, 40_execution_cycle.md R140, R147,
43_byte_io.md R200 to R203): the two byte pulses, the hold at READ and what lifts it, and the state after reset. -/

namespace Sys2Proof.Machine

/-! ### The step in which a byte goes in or out -/

section Pulses

variable {i : Instr} {s t : State}

theorem coreEnabled_iff : coreEnabled s = true ↔ s.rst = false ∧ s.status = .run ∧ holds s = false := by
  simp [coreEnabled, and_assoc]

theorem coreWouldExec_iff : coreWouldExec i s = true ↔
    s.fetches ∧ holds s = false ∧ decode (fetchWord s) = .instr i := by
  simp only [coreWouldExec, Bool.and_eq_true, coreEnabled_iff, decide_eq_true_eq, beq_iff_eq]
  exact ⟨fun ⟨⟨⟨hr, hrun, hh⟩, hp⟩, hw⟩ => ⟨⟨hr, hrun, hp⟩, hh, hw⟩,
    fun ⟨⟨hr, hrun, hp⟩, hh, hw⟩ => ⟨⟨⟨hr, hrun, hh⟩, hp⟩, hw⟩⟩

theorem not_holds_of_inValid (hv : s.inValid = true) : holds s = false := by
  simp [← Bool.not_eq_true, holds_iff, hv]

/-- Only a READ holds. -/
theorem not_holds_of_ne_read (hw : decode (fetchWord s) = .instr i) (hi : i ≠ .read) : holds s = false :=
  Bool.eq_false_iff.2 fun hh => by
    obtain ⟨-, -, hread, -⟩ := holds_iff.1 hh
    exact hi (Decoded.instr.inj (hw.symm.trans hread))

theorem portInAck_iff : portInAck s = true ↔
    s.fetches ∧ decode (fetchWord s) = .instr .read ∧ s.inValid = true := by
  simp only [portInAck, Bool.and_eq_true, coreWouldExec_iff]
  exact ⟨fun ⟨⟨hf, _, hw⟩, hv⟩ => ⟨hf, hw, hv⟩, fun ⟨hf, hw, hv⟩ => ⟨⟨hf, not_holds_of_inValid hv, hw⟩, hv⟩⟩

theorem portOutStrobe_iff : portOutStrobe s = true ↔ s.fetches ∧ decode (fetchWord s) = .instr .write := by
  simp only [portOutStrobe, coreWouldExec_iff]
  exact ⟨fun ⟨hf, _, hw⟩ => ⟨hf, hw⟩, fun ⟨hf, hw⟩ => ⟨hf, not_holds_of_ne_read hw nofun, hw⟩⟩

/-- During an output event `out_data` shows the current cell (R202). -/
theorem portOutData_of_strobe (h : portOutStrobe s = true) : portOutData s = tapeRead s := if_pos h

/-- A core turn that fetches an instruction and has a next state ran that instruction. -/
theorem exec_of_coreStep (hf : s.fetches) (hw : decode (fetchWord s) = .instr i) (h : coreStep s = .next t) :
    exec i s = .next t := by
  obtain ⟨hr, hrun, hp⟩ := hf
  rcases coreStep_next h with ⟨hidle, -⟩ | ⟨-, -, ⟨hend, -⟩ | ⟨-, hrom, -⟩⟩
  · exact absurd hidle (by simp [hr, hrun])
  · exact absurd hp (Nat.not_lt.2 hend)
  · exact (coreStep_exec hr hrun hp hrom hw).symm.trans h

theorem inConsumed_of_portInAck (hack : portInAck s = true) (h : coreStep s = .next t) :
    t.inConsumed = s.inConsumed ++ [s.inData] := by
  obtain ⟨hf, hw, hv⟩ := portInAck_iff.1 hack
  rcases execRead_next.1 (exec_of_coreStep hf hw h) with ⟨-, -, rfl⟩ | ⟨hv', -⟩ | ⟨hv', -⟩
  · rfl
  · exact nomatch hv.symm.trans hv'
  · exact nomatch hv.symm.trans hv'

theorem outStream_of_portOutStrobe (hout : portOutStrobe s = true) (h : coreStep s = .next t) :
    t.outStream = s.outStream ++ [portOutData s] := by
  obtain ⟨hf, hw⟩ := portOutStrobe_iff.1 hout
  obtain ⟨-, rfl⟩ := execWrite_next.1 (exec_of_coreStep hf hw h)
  rw [portOutData_of_strobe hout]
  rfl

end Pulses

/-- Settles O21: a pulse appends a byte to its stream, which is then a different stream; and a core turn that
changes a stream is the READ or the WRITE of the pulse. -/
theorem pulsesMarkConsumedAndEmittedBytes : Obligations.PulsesMarkConsumedAndEmittedBytes := by
  refine fun s t h => ⟨⟨fun hack => ?_, fun hne => ?_⟩, ⟨fun hout => ?_, fun hne => ?_⟩,
    fun hout => outStream_of_portOutStrobe hout h⟩
  · simp [inConsumed_of_portInAck hack h]
  · obtain ⟨hf, hw, hv, -, -⟩ := (coreStep_inConsumed h).resolve_left hne
    exact portInAck_iff.2 ⟨hf, hw, hv⟩
  · simp [outStream_of_portOutStrobe hout h]
  · obtain ⟨hf, hw, -⟩ := (coreStep_outStream h).resolve_left hne
    exact portOutStrobe_iff.2 ⟨hf, hw⟩

/-! ### The hold at READ -/

section Hold

variable {s t : State} {m : HostMove}

/-- A core turn in a hold answers, and changes nothing (R147). -/
theorem coreStep_of_holds (hh : holds s = true) (hrom : s.progLen.toNat ≤ s.cfg.romDepth) :
    coreStep s = .next s := by
  obtain ⟨hrun, hp, hw, hv, he⟩ := holds_iff.1 hh
  cases hr : s.rst with
  | true => exact coreStep_idle (.inl hr)
  | false => exact (coreStep_exec hr hrun hp (hp.trans_le hrom) hw).trans (execRead_of_noInput hv he)

/-- The host's turn with a move that it has is the move's effect. -/
theorem hostStep_of_moveEnabled (hen : moveEnabled m s = true) : hostStep m s = .next (moveEffect m s) :=
  hostStep_next.2 ⟨hen, rfl⟩

/-- The host moves that leave a hold standing: with `rst` = 0 the loads and the release are not there, and a
readback writes nothing that the hold condition names. -/
theorem holds_of_hostStep (hh : holds s = true) (hr : s.rst = false) (h : hostStep m s = .next t) :
    holds t = true ∨ (∃ b, m = .present b) ∨ m = .signalEof ∨ m = .assertReset := by
  obtain ⟨hen, rfl⟩ := hostStep_next.1 h
  have no_rst : s.rst ≠ true := by simp [hr]
  cases m with
  | present b => exact .inr (.inl ⟨b, rfl⟩)
  | signalEof => exact .inr (.inr (.inl rfl))
  | assertReset => exact .inr (.inr (.inr rfl))
  | releaseReset => exact absurd hen no_rst
  | loadWord a w => exact absurd (moveEnabled_loadWord.1 hen) no_rst
  | loadProgLen n => exact absurd (moveEnabled_loadProgLen.1 hen).1 no_rst
  | readTape a => exact .inl hh

end Hold

/-- Settles O29: the core has no step with `rst` = 1, outside RUN and in a hold, and its turn is idle in each. -/
theorem coreWithoutStepChangesNothing : Obligations.CoreWithoutStepChangesNothing := by
  intro s hrom
  refine ⟨?_, fun hoff => ?_⟩
  · rw [coreEnabled_iff, ← fetchWord, ← Bool.not_eq_true (holds s), holds_iff]
    exact and_congr_right fun _ => and_congr_right fun hrun => by simp [hrun]
  · by_cases hh : holds s = true
    · exact coreStep_of_holds hh hrom
    · refine coreStep_idle (Decidable.or_iff_not_imp_left.2 fun hr hrun => ?_)
      exact Bool.eq_false_iff.1 hoff (coreEnabled_iff.2 ⟨by simpa using hr, hrun, by simpa using hh⟩)

/-- Settles O30: PRESENT and SIGNAL_EOF leave the machine at the same READ, which then consumes the byte or
faults; RESET leaves it with `rst` = 1; and no other move touches the hold. -/
theorem holdIsLiftedOnlyByTheHost : Obligations.HoldIsLiftedOnlyByTheHost := by
  intro s hh hr hrom hc
  obtain ⟨hrun, hp, hw, hv, he⟩ := holds_iff.1 hh
  have hd := hp.trans_le hrom
  refine ⟨hh, coreStep_of_holds hh hrom, fun b => ?_, ?_, ?_, fun m u h => holds_of_hostStep hh hr h⟩
  · have consumes := (coreStep_exec (s := presentByte b s) hr hrun hp hd hw).trans (execRead_of_inValid rfl hc)
    have hcell := Memory.read_write_self s.tape s.cursor.toNat b
    exact ⟨_, _, hostStep_of_moveEnabled (moveEnabled_present.2 ⟨hr, hv, he⟩), consumes, hcell, rfl, rfl, rfl⟩
  · have faults := (coreStep_exec (s := signalEof s) hr hrun hp hd hw).trans (execRead_of_inEof hv rfl)
    exact ⟨_, hostStep_of_moveEnabled (moveEnabled_signalEof.2 ⟨hr, he⟩), faults⟩
  · exact ⟨_, hostStep_of_moveEnabled (m := .assertReset) rfl, rfl, rfl⟩

/-! ### The state after reset -/

/-- Settles O40: with nothing loaded, stored or emitted the invariant asks only for the ranges of the parameters. -/
theorem resetStateIsLegal : Obligations.ResetStateIsLegal where
  config := by decide
  cursor := by decide
  tapeWf := Memory.nil_wf
  tapeRange := fun _ hp => nomatch hp
  romWf := Rom.nil_wf
  romRange := fun _ hp => nomatch hp
  progLen := Nat.zero_le _
  cause := by decide
  faultIp := nofun
  noFaultIp := fun _ => rfl
  doneIp := nofun
  faultInProgram := nofun
  outData := fun _ hb => nomatch hb
  atReset := nofun

end Sys2Proof.Machine
